-- ==== Sys2Proof/Word.lean ====
section
/-! DEFINITION. The word types of the machine (spec/00_scope.md R5, R6): what the spec treats as bits.
All values are unsigned (R6, 41_alu.md R112). -/

namespace Sys2Proof

/-- A memory byte or a general register: 8 bits (10_state.md R10, R19). -/
abbrev Byte := BitVec 8

/-- An instruction word (30_encoding.md R60), or an `ADDR_BITS`-bit value: `pc`, `ir`, a stack entry
(10_state.md R12 to R14; the width 16 is the spec's decision D7). -/
abbrev Word := BitVec 16

/-- A nibble field of an instruction word: the register indices `x` and `y`, the row count `n`
(30_encoding.md R61). -/
abbrev Nibble := BitVec 4

/-- The 12-bit address immediate `nnn` (30_encoding.md R61). -/
abbrev Addr12 := BitVec 12

end Sys2Proof
end

