-- ==== Sys2Proof/Config.lean ====
section
/-! DEFINITION. What one implementation fixes (the parameters of spec/00_scope.md R5), the shape of the open
parameter SYS_NOOP, and the one free value, the random byte of a tick. -/

namespace Sys2Proof.Config

/-- MEM_SIZE, the number of bytes of memory (00_scope.md R5; the spec's decision D5). -/
abbrev memSize : Nat := 4096

/-- PROGRAM_ORIGIN, the reset value of `pc` (00_scope.md R5; the spec's decision D4, from general knowledge). -/
abbrev programOrigin : Nat := 0x200

/-- DISPLAY_W (00_scope.md R5; the spec's decision D9, from general knowledge). -/
abbrev displayW : Nat := 64

/-- DISPLAY_H (00_scope.md R5; the spec's decision D9, from general knowledge). -/
abbrev displayH : Nat := 32

/-- FONT_STRIDE, bytes per glyph (00_scope.md R5). FONT_BASE is 0 and has no term in the formula of
42_index_memory.md R122. -/
abbrev fontStride : Nat := 5

/-- STACK_CAPACITY at reset. DESIGN CHOICE (log 3): the spec leaves the parameter OPEN (R5, D8); 16 is its reference
value. Only `State.reset` uses it: everywhere else the capacity is the length of `State.stack`. -/
abbrev referenceStackCapacity : Nat := 16

/-- The random byte offered to the n-th tick that no schedule names (41_alu.md R111: "a free input under no law").
No body: nothing can be proved of its values (log 2). -/
opaque freeRandByte : Nat → Byte

end Sys2Proof.Config

namespace Sys2Proof

/-- One pattern of the open parameter SYS_NOOP: it accepts the `nnn` whose bits under `mask` are `value`
("low 8 bits match a specific legacy pattern", 30_encoding.md R67). -/
structure SysPattern where
  mask  : Addr12
  value : Addr12
  deriving DecidableEq, Repr

/-- The open parameter SYS_NOOP (00_scope.md R5, 30_encoding.md R67) as plain data: the `nnn` that at least one pattern
accepts. Every predicate on 12 bits is such a list (log 4). -/
abbrev SysNoop := List SysPattern

/-- The reference instantiation of SYS_NOOP: true of every `nnn` (0x0E0 and 0x0EE are tested before it, R65).
DESIGN CHOICE (log 4): used by `State.reset` and by `decodeTableWord`, by nothing else. -/
def SysNoop.reference : SysNoop := [{ mask := 0x000#12, value := 0x000#12 }]

end Sys2Proof
end

