-- ==== Sys2Proof/Syntax.lean ====
section
/-! DEFINITION. The instruction set: one constructor for each of the 35 rows of spec/opcode_table.json
(30_encoding.md R64), with the operand fields of its format (R61, R62). -/

namespace Sys2Proof

inductive Instr where
  /-- `00E0` CLS (43_display.md R134) -/
  | cls
  /-- `00EE` RET (40_control.md R83) -/
  | ret
  /-- `0nnn` SYS (40_control.md R82) -/
  | sys (nnn : Addr12)
  /-- `1nnn` JP (40_control.md R84) -/
  | jp (nnn : Addr12)
  /-- `2nnn` CALL (40_control.md R85) -/
  | call (nnn : Addr12)
  /-- `3xkk` SE_IMM (40_control.md R86) -/
  | seImm (x : Nibble) (kk : Byte)
  /-- `4xkk` SNE_IMM (40_control.md R87) -/
  | sneImm (x : Nibble) (kk : Byte)
  /-- `5xy0` SE_REG (40_control.md R88) -/
  | seReg (x y : Nibble)
  /-- `6xkk` LD_IMM (41_alu.md R100) -/
  | ldImm (x : Nibble) (kk : Byte)
  /-- `7xkk` ADD_IMM (41_alu.md R101) -/
  | addImm (x : Nibble) (kk : Byte)
  /-- `8xy0` LD_REG (41_alu.md R102) -/
  | ldReg (x y : Nibble)
  /-- `8xy1` OR (41_alu.md R103) -/
  | orReg (x y : Nibble)
  /-- `8xy2` AND (41_alu.md R104) -/
  | andReg (x y : Nibble)
  /-- `8xy3` XOR (41_alu.md R105) -/
  | xorReg (x y : Nibble)
  /-- `8xy4` ADD_REG (41_alu.md R106) -/
  | addReg (x y : Nibble)
  /-- `8xy5` SUB (41_alu.md R107) -/
  | sub (x y : Nibble)
  /-- `8xy6` SHR (41_alu.md R108) -/
  | shr (x y : Nibble)
  /-- `8xy7` SUBN (41_alu.md R109) -/
  | subn (x y : Nibble)
  /-- `8xyE` SHL (41_alu.md R110) -/
  | shl (x y : Nibble)
  /-- `9xy0` SNE_REG (40_control.md R89) -/
  | sneReg (x y : Nibble)
  /-- `Annn` LD_I (42_index_memory.md R120) -/
  | ldI (nnn : Addr12)
  /-- `Bnnn` JP_V0 (40_control.md R90) -/
  | jpV0 (nnn : Addr12)
  /-- `Cxkk` RND (41_alu.md R111) -/
  | rnd (x : Nibble) (kk : Byte)
  /-- `Dxyn` DRW (43_display.md R135) -/
  | drw (x y n : Nibble)
  /-- `Ex9E` SKP (44_keys_timers.md R143) -/
  | skp (x : Nibble)
  /-- `ExA1` SKNP (44_keys_timers.md R144) -/
  | sknp (x : Nibble)
  /-- `Fx07` LD_VX_DT (44_keys_timers.md R146) -/
  | ldVxDt (x : Nibble)
  /-- `Fx0A` LD_VX_K (44_keys_timers.md R145) -/
  | ldVxK (x : Nibble)
  /-- `Fx15` LD_DT_VX (44_keys_timers.md R147) -/
  | ldDtVx (x : Nibble)
  /-- `Fx18` LD_ST_VX (44_keys_timers.md R148) -/
  | ldStVx (x : Nibble)
  /-- `Fx1E` ADD_I_VX (42_index_memory.md R121) -/
  | addIVx (x : Nibble)
  /-- `Fx29` LD_F_VX (42_index_memory.md R122) -/
  | ldFVx (x : Nibble)
  /-- `Fx33` LD_B_VX (42_index_memory.md R123) -/
  | ldBVx (x : Nibble)
  /-- `Fx55` ST_REGS (42_index_memory.md R124) -/
  | stRegs (x : Nibble)
  /-- `Fx65` LD_REGS (42_index_memory.md R125) -/
  | ldRegs (x : Nibble)
  deriving DecidableEq, Repr

end Sys2Proof
end

