-- ==== Sys2Proof/WellFormed.lean ====
section
/-! DEFINITION. Which instructions have an encoding of their own. The operand fields have exactly the widths of
spec/30_encoding.md R61, so every register index, `kk`, `n` and `nnn` is in range by its type; what is left is R64's
overlap of SYS with CLS and RET. -/

namespace Sys2Proof

/-- `SYS nnn` is an instruction only for `nnn` other than 0x0E0 and 0x0EE: those words are CLS and RET
(30_encoding.md R64, R67; 40_control.md R82). -/
def sysOperandOk (nnn : Addr12) : Bool := nnn != 0x0E0#12 && nnn != 0x0EE#12

/-- The well-formed instructions: those that some word decodes to. -/
def wellFormed : Instr → Bool
  | .sys nnn => sysOperandOk nnn
  | .cls | .ret | .jp _ | .call _ | .seImm _ _ | .sneImm _ _ | .seReg _ _ | .ldImm _ _ | .addImm _ _
  | .ldReg _ _ | .orReg _ _ | .andReg _ _ | .xorReg _ _ | .addReg _ _ | .sub _ _ | .shr _ _ | .subn _ _
  | .shl _ _ | .sneReg _ _ | .ldI _ | .jpV0 _ | .rnd _ _ | .drw _ _ _ | .skp _ | .sknp _ | .ldVxDt _
  | .ldVxK _ | .ldDtVx _ | .ldStVx _ | .addIVx _ | .ldFVx _ | .ldBVx _ | .stRegs _ | .ldRegs _ => true

end Sys2Proof
end

