-- ==== Sys2Proof/Decode.lean ====
section
/-! DEFINITION. Decoding and encoding (spec/30_encoding.md): the fields of a word, the decoder in the order of R65, the
encoder in the formats of R62, and the match and mask table of R64 as a second, separate reading of the opcode map. -/

namespace Sys2Proof

/-! ## Fields (R61) -/

/-- `op = w[15:12]` -/
def opField (w : Word) : Nibble := w.extractLsb' 12 4
/-- `x = w[11:8]` -/
def xField (w : Word) : Nibble := w.extractLsb' 8 4
/-- `y = w[7:4]` -/
def yField (w : Word) : Nibble := w.extractLsb' 4 4
/-- `n = w[3:0]` -/
def nField (w : Word) : Nibble := w.extractLsb' 0 4
/-- `kk = w[7:0]` -/
def kkField (w : Word) : Byte := w.extractLsb' 0 8
/-- `nnn = w[11:0]` -/
def nnnField (w : Word) : Addr12 := w.extractLsb' 0 12

/-- The word whose byte at the lower address is `hi`: big-endian (20_memory.md R42; the order is the spec's decision
D3). -/
def wordOfBytes (hi lo : Byte) : Word := hi ++ lo
/-- The byte of `w` at the lower address. -/
def highByte (w : Word) : Byte := w.extractLsb' 8 8
/-- The byte of `w` at the higher address. -/
def lowByte (w : Word) : Byte := w.extractLsb' 0 8

/-! ## The decoder (R65) -/

/-- What a word decodes to: one of the 35 instructions, or `Unknown(w)` (R65). -/
inductive Decoded where
  | instr (i : Instr)
  /-- No test accepts the word: executing it raises `RuntimeError(UnknownOpcode, w)` (R66). -/
  | unknown (w : Word)
  deriving DecidableEq, Repr

/-- The predicate `SYS_NOOP(nnn)` of R67. -/
def sysNoopHolds (p : SysNoop) (nnn : Addr12) : Bool := p.any fun q => (nnn &&& q.mask) == q.value

/-- Family 0: the whole word against 0x00E0 and 0x00EE, then `SYS_NOOP(nnn)` (R65). -/
def decodeFamily0 (p : SysNoop) (w : Word) : Decoded :=
  if w = 0x00E0#16 then .instr .cls
  else if w = 0x00EE#16 then .instr .ret
  else if sysNoopHolds p (nnnField w) then .instr (.sys (nnnField w))
  else .unknown w

/-- Family 5: the nibble `n` must be 0 (R65, R66). -/
def decodeFamily5 (w : Word) : Decoded :=
  match (nField w).toNat with
  | 0 => .instr (.seReg (xField w) (yField w))
  | _ => .unknown w

/-- Family 8: the nibble `n` selects the operation (R64, R65). -/
def decodeFamily8 (w : Word) : Decoded :=
  match (nField w).toNat with
  | 0 => .instr (.ldReg (xField w) (yField w))
  | 1 => .instr (.orReg (xField w) (yField w))
  | 2 => .instr (.andReg (xField w) (yField w))
  | 3 => .instr (.xorReg (xField w) (yField w))
  | 4 => .instr (.addReg (xField w) (yField w))
  | 5 => .instr (.sub (xField w) (yField w))
  | 6 => .instr (.shr (xField w) (yField w))
  | 7 => .instr (.subn (xField w) (yField w))
  | 14 => .instr (.shl (xField w) (yField w))
  | _ => .unknown w

/-- Family 9: the nibble `n` must be 0 (R65, R66). -/
def decodeFamily9 (w : Word) : Decoded :=
  match (nField w).toNat with
  | 0 => .instr (.sneReg (xField w) (yField w))
  | _ => .unknown w

/-- Family E: the byte `kk` selects the operation (R64, R65). -/
def decodeFamilyE (w : Word) : Decoded :=
  match (kkField w).toNat with
  | 0x9E => .instr (.skp (xField w))
  | 0xA1 => .instr (.sknp (xField w))
  | _ => .unknown w

/-- Family F: the byte `kk` selects the operation (R64, R65). -/
def decodeFamilyF (w : Word) : Decoded :=
  match (kkField w).toNat with
  | 0x07 => .instr (.ldVxDt (xField w))
  | 0x0A => .instr (.ldVxK (xField w))
  | 0x15 => .instr (.ldDtVx (xField w))
  | 0x18 => .instr (.ldStVx (xField w))
  | 0x1E => .instr (.addIVx (xField w))
  | 0x29 => .instr (.ldFVx (xField w))
  | 0x33 => .instr (.ldBVx (xField w))
  | 0x55 => .instr (.stRegs (xField w))
  | 0x65 => .instr (.ldRegs (xField w))
  | _ => .unknown w

/-- The decode function, total on 16-bit words: first the top nibble, then the secondary field of the multi-variant
families (R65). `p` is the open parameter SYS_NOOP. -/
def decodeWord (p : SysNoop) (w : Word) : Decoded :=
  match (opField w).toNat with
  | 0x0 => decodeFamily0 p w
  | 0x1 => .instr (.jp (nnnField w))
  | 0x2 => .instr (.call (nnnField w))
  | 0x3 => .instr (.seImm (xField w) (kkField w))
  | 0x4 => .instr (.sneImm (xField w) (kkField w))
  | 0x5 => decodeFamily5 w
  | 0x6 => .instr (.ldImm (xField w) (kkField w))
  | 0x7 => .instr (.addImm (xField w) (kkField w))
  | 0x8 => decodeFamily8 w
  | 0x9 => decodeFamily9 w
  | 0xA => .instr (.ldI (nnnField w))
  | 0xB => .instr (.jpV0 (nnnField w))
  | 0xC => .instr (.rnd (xField w) (kkField w))
  | 0xD => .instr (.drw (xField w) (yField w) (nField w))
  | 0xE => decodeFamilyE w
  | _ => decodeFamilyF w

/-- Decoding the two bytes of an instruction, `hi` from the lower address (R60, 20_memory.md R42). -/
def decodeBytes (p : SysNoop) (hi lo : Byte) : Decoded := decodeWord p (wordOfBytes hi lo)

/-- The instruction read from an opcode-table word: its two bytes laid out as memory holds them, then decoded with the
reference SYS_NOOP (log 4). -/
def decodeTableWord (nbits w : Nat) : Option Instr :=
  let word : Word := BitVec.ofNat 16 (w % 2 ^ nbits)
  match decodeBytes SysNoop.reference (highByte word) (lowByte word) with
  | .instr i => some i
  | .unknown _ => none

/-! ## The encoder (R62, R64) -/

/-- Format NNN. -/
def wordNNN (op : Nibble) (nnn : Addr12) : Word := op ++ nnn
/-- Formats XKK and XSUB (in XSUB `kk` is the fixed sub-opcode). -/
def wordXKK (op x : Nibble) (kk : Byte) : Word := op ++ x ++ kk
/-- Format XYN (`n` is a sub-opcode or an operand). -/
def wordXYN (op x y n : Nibble) : Word := op ++ x ++ y ++ n

/-- The word of an instruction, from the pattern column of R64. -/
def encode : Instr → Word
  | .cls => 0x00E0#16
  | .ret => 0x00EE#16
  | .sys nnn => wordNNN 0x0#4 nnn
  | .jp nnn => wordNNN 0x1#4 nnn
  | .call nnn => wordNNN 0x2#4 nnn
  | .seImm x kk => wordXKK 0x3#4 x kk
  | .sneImm x kk => wordXKK 0x4#4 x kk
  | .seReg x y => wordXYN 0x5#4 x y 0x0#4
  | .ldImm x kk => wordXKK 0x6#4 x kk
  | .addImm x kk => wordXKK 0x7#4 x kk
  | .ldReg x y => wordXYN 0x8#4 x y 0x0#4
  | .orReg x y => wordXYN 0x8#4 x y 0x1#4
  | .andReg x y => wordXYN 0x8#4 x y 0x2#4
  | .xorReg x y => wordXYN 0x8#4 x y 0x3#4
  | .addReg x y => wordXYN 0x8#4 x y 0x4#4
  | .sub x y => wordXYN 0x8#4 x y 0x5#4
  | .shr x y => wordXYN 0x8#4 x y 0x6#4
  | .subn x y => wordXYN 0x8#4 x y 0x7#4
  | .shl x y => wordXYN 0x8#4 x y 0xE#4
  | .sneReg x y => wordXYN 0x9#4 x y 0x0#4
  | .ldI nnn => wordNNN 0xA#4 nnn
  | .jpV0 nnn => wordNNN 0xB#4 nnn
  | .rnd x kk => wordXKK 0xC#4 x kk
  | .drw x y n => wordXYN 0xD#4 x y n
  | .skp x => wordXKK 0xE#4 x 0x9E#8
  | .sknp x => wordXKK 0xE#4 x 0xA1#8
  | .ldVxDt x => wordXKK 0xF#4 x 0x07#8
  | .ldVxK x => wordXKK 0xF#4 x 0x0A#8
  | .ldDtVx x => wordXKK 0xF#4 x 0x15#8
  | .ldStVx x => wordXKK 0xF#4 x 0x18#8
  | .addIVx x => wordXKK 0xF#4 x 0x1E#8
  | .ldFVx x => wordXKK 0xF#4 x 0x29#8
  | .ldBVx x => wordXKK 0xF#4 x 0x33#8
  | .stRegs x => wordXKK 0xF#4 x 0x55#8
  | .ldRegs x => wordXKK 0xF#4 x 0x65#8

/-! ## The opcode map as R64 prints it -/

/-- One row of R64: a word `w` belongs to it when `w &&& mask = value` (the row's `match`). -/
structure OpRow where
  mnemonic : String
  value    : Word
  mask     : Word
  deriving DecidableEq, Repr

/-- The rows of R64, in its order: CLS and RET before SYS, so that the first matching row is the one with the larger
mask. -/
def opTable : List OpRow :=
  [⟨"CLS", 0x00E0, 0xFFFF⟩, ⟨"RET", 0x00EE, 0xFFFF⟩, ⟨"SYS", 0x0000, 0xF000⟩, ⟨"JP", 0x1000, 0xF000⟩,
   ⟨"CALL", 0x2000, 0xF000⟩, ⟨"SE_IMM", 0x3000, 0xF000⟩, ⟨"SNE_IMM", 0x4000, 0xF000⟩,
   ⟨"SE_REG", 0x5000, 0xF00F⟩, ⟨"LD_IMM", 0x6000, 0xF000⟩, ⟨"ADD_IMM", 0x7000, 0xF000⟩] ++
  [⟨"LD_REG", 0x8000, 0xF00F⟩, ⟨"OR", 0x8001, 0xF00F⟩, ⟨"AND", 0x8002, 0xF00F⟩, ⟨"XOR", 0x8003, 0xF00F⟩,
   ⟨"ADD_REG", 0x8004, 0xF00F⟩, ⟨"SUB", 0x8005, 0xF00F⟩, ⟨"SHR", 0x8006, 0xF00F⟩, ⟨"SUBN", 0x8007, 0xF00F⟩,
   ⟨"SHL", 0x800E, 0xF00F⟩, ⟨"SNE_REG", 0x9000, 0xF00F⟩] ++
  [⟨"LD_I", 0xA000, 0xF000⟩, ⟨"JP_V0", 0xB000, 0xF000⟩, ⟨"RND", 0xC000, 0xF000⟩, ⟨"DRW", 0xD000, 0xF000⟩,
   ⟨"SKP", 0xE09E, 0xF0FF⟩, ⟨"SKNP", 0xE0A1, 0xF0FF⟩] ++
  [⟨"LD_VX_DT", 0xF007, 0xF0FF⟩, ⟨"LD_VX_K", 0xF00A, 0xF0FF⟩, ⟨"LD_DT_VX", 0xF015, 0xF0FF⟩,
   ⟨"LD_ST_VX", 0xF018, 0xF0FF⟩, ⟨"ADD_I_VX", 0xF01E, 0xF0FF⟩, ⟨"LD_F_VX", 0xF029, 0xF0FF⟩,
   ⟨"LD_B_VX", 0xF033, 0xF0FF⟩, ⟨"ST_REGS", 0xF055, 0xF0FF⟩, ⟨"LD_REGS", 0xF065, 0xF0FF⟩]

/-- The row of an instruction (the mnemonic column of R64). -/
def mnemonic : Instr → String
  | .cls => "CLS"
  | .ret => "RET"
  | .sys _ => "SYS"
  | .jp _ => "JP"
  | .call _ => "CALL"
  | .seImm _ _ => "SE_IMM"
  | .sneImm _ _ => "SNE_IMM"
  | .seReg _ _ => "SE_REG"
  | .ldImm _ _ => "LD_IMM"
  | .addImm _ _ => "ADD_IMM"
  | .ldReg _ _ => "LD_REG"
  | .orReg _ _ => "OR"
  | .andReg _ _ => "AND"
  | .xorReg _ _ => "XOR"
  | .addReg _ _ => "ADD_REG"
  | .sub _ _ => "SUB"
  | .shr _ _ => "SHR"
  | .subn _ _ => "SUBN"
  | .shl _ _ => "SHL"
  | .sneReg _ _ => "SNE_REG"
  | .ldI _ => "LD_I"
  | .jpV0 _ => "JP_V0"
  | .rnd _ _ => "RND"
  | .drw _ _ _ => "DRW"
  | .skp _ => "SKP"
  | .sknp _ => "SKNP"
  | .ldVxDt _ => "LD_VX_DT"
  | .ldVxK _ => "LD_VX_K"
  | .ldDtVx _ => "LD_DT_VX"
  | .ldStVx _ => "LD_ST_VX"
  | .addIVx _ => "ADD_I_VX"
  | .ldFVx _ => "LD_F_VX"
  | .ldBVx _ => "LD_B_VX"
  | .stRegs _ => "ST_REGS"
  | .ldRegs _ => "LD_REGS"

/-- The first row of R64 that matches `w`. -/
def tableRow (w : Word) : Option OpRow := opTable.find? fun r => (w &&& r.mask) == r.value

end Sys2Proof
end

