-- ==== Sys2Proof/Machine/State.lean ====
section
/-! DEFINITION. The machine's state as plain data (spec/10_state.md R10 to R26), the host's operations (00_scope.md
R3), the reasons a step can stop, and the state right after reset. -/

namespace Sys2Proof.Machine

/-- The causes of a runtime error (60_exceptions.md R152). -/
inductive Cause where
  /-- CALL with a full stack -/
  | stackOverflow
  /-- RET with an empty stack -/
  | stackUnderflow
  /-- an access or a fetch past the end of memory -/
  | memoryOutOfRange
  /-- a word that decodes to `Unknown` -/
  | unknownOpcode
  /-- SKP or SKNP with a register value above 15 -/
  | badKeyIndex
  deriving DecidableEq, Repr

/-- Why the machine halted (10_state.md R18); `info` as 60_exceptions.md R152 says. -/
inductive HaltReason where
  | explicitHalt
  | runtimeError (cause : Cause) (info : Word)
  deriving DecidableEq, Repr

/-- The run state (10_state.md R18); `xw` is the register index latched by LD_VX_K. -/
inductive RunState where
  | running
  | waitingForKey (xw : Nibble)
  | halted (reason : HaltReason)
  deriving DecidableEq, Repr

/-- What a tick returns to the host (60_exceptions.md R150). -/
inductive Status where
  | ok
  | halt
  | runtimeError (cause : Cause) (info : Word)
  deriving DecidableEq, Repr

/-- The operations the block offers the host (00_scope.md R3); read-outs change nothing and are functions of the
state. -/
inductive HostOp where
  | tick (randByte : Byte)
  | timerDecrement
  | setKeys (pressed released : Word)
  | setQuirks (shiftVy indexAdvance : Bool)
  | reset
  | resetDisplayFlags
  | memWrite (addr : Nat) (bytes : List Byte)
  deriving DecidableEq, Repr

/-- A grid of 1-bit cells, `DISPLAY_H` rows of `DISPLAY_W` columns (43_display.md R130): the cell at column `x` and row
`y` is `g[y][x]`. -/
abbrev Grid := Vector (Vector Bool Config.displayW) Config.displayH

/-- The display half of the device (10_state.md R20, R21). `any_update` is no separate state: it is the OR of `dirty`
(R21). -/
structure Display where
  fb         : Grid
  dirty      : Grid
  wasCleared : Bool
  deriving DecidableEq, Repr

/-- Memory (10_state.md R19): the bytes that differ from what an unlisted address reads as (`Memory.unlisted`), by
strictly rising address. -/
abbrev Memory := List Host.Cell

/-- Everything the spec gives the machine (10_state.md R10 to R22), and last the model's own fields (log 1, 2, 4):
the parameter SYS_NOOP, the host's schedule, and the random byte offered to the running tick. -/
structure State where
  /-- `V[0]` to `V[15]` (R10); `V[15]` is the flag register (R11) -/
  regs : Vector Byte 16
  /-- the index register (R12) -/
  ir : Word
  /-- the program counter (R13) -/
  pc : Word
  /-- `stack[0 .. STACK_CAPACITY-1]` (R14); the parameter STACK_CAPACITY is its length (log 3) -/
  stack : List Word
  /-- the depth counter of the call stack (R14) -/
  sp : Nat
  /-- the delay timer `DT` (R15) -/
  dt : Byte
  /-- the sound timer `ST` (R16) -/
  st : Byte
  /-- `QUIRK_SHIFT_VY` (R17) -/
  quirkShiftVy : Bool
  /-- `QUIRK_INDEX_ADVANCE` (R17) -/
  quirkIndexAdvance : Bool
  /-- `run_state` (R18) -/
  runState : RunState
  /-- `mem` (R19) -/
  mem : Memory
  /-- `fb`, `dirty` and `was_cleared` (R20, R21) -/
  display : Display
  /-- `keys_pressed`, bit `k` for key `k` (R22) -/
  keysPressed : Word
  /-- `keys_released`, bit `k` for key `k` (R22) -/
  keysReleased : Word
  /-- the model's own: the open parameter SYS_NOOP (30_encoding.md R67, log 4); no operation changes it -/
  sysNoop : SysNoop
  /-- the model's own: the host operations to come, the next one first (00_scope.md R3, log 1) -/
  schedule : List HostOp
  /-- the model's own: the `rand_byte` input of the tick in progress (41_alu.md R111, log 2) -/
  randByte : Byte
  /-- the model's own: how many ticks were made in Running, the index of the next free random byte (log 2) -/
  draws : Nat
  deriving DecidableEq, Repr

/-- Why a step of the model stops with a fault. -/
inductive Fault where
  /-- Raised by CALL and RET for a stack entry at or above STACK_CAPACITY, which does not exist (10_state.md R14). Only
  a state with `sp` above the capacity raises it, which R14 rules out and no step reaches. Safe (log 12). -/
  | stackEntryAbsent
  deriving DecidableEq, Repr

/-- Why the model has no step. -/
inductive Refusal where
  /-- Raised by `exec` for an instruction that has no meaning yet. Safe. -/
  | notModelled (mnemonic : String)
  /-- Raised by a scheduled `mem_write` whose range would pass MEM_SIZE: "refused: it changes nothing, and the model
  gives it no step" (20_memory.md R53). Safe (log 13). -/
  | hostWriteOutOfRange
  deriving DecidableEq, Repr

/-- What a step, or the meaning of an instruction, answers. -/
abbrev Result := Host.Outcome State Fault Refusal

/-- A grid with every cell `b`. -/
def Grid.filled (b : Bool) : Grid := Vector.replicate Config.displayH (Vector.replicate Config.displayW b)

/-- The machine right after its creation and reset (10_state.md R25, 70_reset_and_hazards.md R180, R181). The stack
entries, the capacity, the quirk flags and the model's own fields have values the spec does not give: log 1 to 5, 8. -/
def State.reset : State where
  regs := Vector.replicate 16 0x00#8
  ir := 0x0000#16
  pc := BitVec.ofNat 16 Config.programOrigin
  stack := List.replicate Config.referenceStackCapacity 0x0000#16
  sp := 0
  dt := 0x00#8
  st := 0x00#8
  quirkShiftVy := false
  quirkIndexAdvance := false
  runState := .running
  mem := []
  display := { fb := Grid.filled false, dirty := Grid.filled false, wasCleared := false }
  keysPressed := 0x0000#16
  keysReleased := 0x0000#16
  sysNoop := SysNoop.reference
  schedule := []
  randByte := 0x00#8
  draws := 0

end Sys2Proof.Machine
end

