-- ==== Sys2Proof/Machine/Memory.lean ====
section
/-! DEFINITION. Memory (spec/20_memory.md): what an unlisted address reads as, reading and writing one byte, and the
checked accesses MemRead and MemWrite of R41, on which every instruction and the host's memory port rest. -/

namespace Sys2Proof.Machine

/-- The 80 font bytes of R54, glyph `d` at `5 * d` (from general knowledge, the spec's decision D25). -/
def fontBytes : List Byte :=
  [0xF0, 0x90, 0x90, 0x90, 0xF0,  0x20, 0x60, 0x20, 0x20, 0x70,  0xF0, 0x10, 0xF0, 0x80, 0xF0,
   0xF0, 0x10, 0xF0, 0x10, 0xF0] ++
  [0x90, 0x90, 0xF0, 0x10, 0x10,  0xF0, 0x80, 0xF0, 0x10, 0xF0,  0xF0, 0x80, 0xF0, 0x90, 0xF0,
   0xF0, 0x10, 0x20, 0x40, 0x40] ++
  [0xF0, 0x90, 0xF0, 0x90, 0xF0,  0xF0, 0x90, 0xF0, 0x10, 0xF0,  0xF0, 0x90, 0xF0, 0x90, 0x90,
   0xE0, 0x90, 0xE0, 0x90, 0xE0] ++
  [0xF0, 0x80, 0x80, 0x80, 0xF0,  0xE0, 0x90, 0x90, 0x90, 0xE0,  0xF0, 0x80, 0xF0, 0x80, 0xF0,
   0xF0, 0x80, 0xF0, 0x80, 0x80]

/-- What an address that memory does not list reads as. DESIGN CHOICE (log 6): the initial content is the open host
input MEM_INIT (10_state.md R25); this is its reference, the font from address 0 and zeros after it. -/
def Memory.unlisted (a : Nat) : Byte := fontBytes.getD a 0x00#8

/-- The byte at address `a`: `mem[a]`. -/
def Memory.read : Memory → Nat → Byte
  | [], a => Memory.unlisted a
  | (k, v) :: m, a => if a = k then v else Memory.read m a

/-- Lists the byte `b` at `a` in front of `m`, unless an unlisted `a` reads as `b` anyway. -/
def Memory.put (a : Nat) (b : Byte) (m : Memory) : Memory := if b = Memory.unlisted a then m else (a, b) :: m

/-- `mem[a] <- b`, in canonical form. -/
def Memory.write : Memory → Nat → Byte → Memory
  | [], a, b => Memory.put a b []
  | (k, v) :: m, a, b =>
    if a < k then Memory.put a b ((k, v) :: m)
    else if a = k then Memory.put a b m
    else (k, v) :: Memory.write m a b

/-- `bs` at `a`, `a + 1`, ... in ascending order (R44), without a bounds check. -/
def Memory.writeAll : Memory → Nat → List Byte → Memory
  | m, _, [] => m
  | m, a, b :: bs => Memory.writeAll (Memory.write m a b) (a + 1) bs

/-- The bounds check of R41, in natural numbers without wrap-around (42_index_memory.md R126). An access to no byte has
no address to check (43_display.md R135). -/
def Memory.inRange (a n : Nat) : Bool := n == 0 || decide (a + n - 1 < Config.memSize)

/-- `MemRead(a, n)` of R41; none where the range passes the end of memory. -/
def Memory.readBytes? (m : Memory) (a n : Nat) : Option (List Byte) :=
  if Memory.inRange a n then some ((List.range n).map fun i => Memory.read m (a + i)) else none

/-- `MemWrite(a, n, v)` of R41; none where the range passes the end of memory, and then nothing is written. -/
def Memory.writeBytes? (m : Memory) (a : Nat) (bs : List Byte) : Option Memory :=
  if Memory.inRange a bs.length then some (Memory.writeAll m a bs) else none

/-- The canonical form: addresses strictly rising and below MEM_SIZE (R40), and no entry equal to what an unlisted
address reads as. -/
def Memory.wf : Memory → Bool
  | [] => true
  | (k, v) :: m =>
    decide (k < Config.memSize) && decide (v ≠ Memory.unlisted k) && m.all (fun c => decide (k < c.1)) && Memory.wf m

end Sys2Proof.Machine
end

