-- ==== Sys2Proof/Machine/Ops.lean ====
section
/-! DEFINITION. The named operations over registers, run state, call stack and memory that the meanings share: the
accessors, raising a runtime error (60_exceptions.md R153) and the explicit halt (R154), pushing and popping return
addresses, checked stores and loads, and the instruction fetch. There is no return from an error (R159): the host's
reset is the only way out, `hostReset` in HostOps.lean. -/

namespace Sys2Proof.Machine

/-! ## Accessors: one read and one write for every piece of state an instruction reaches -/

/-- Reads `V[r]` (10_state.md R10). -/
def State.V (s : State) (r : Nibble) : Byte := s.regs[r.toNat]'r.isLt
/-- `V[r] <- b` -/
def State.setV (s : State) (r : Nibble) (b : Byte) : State := { s with regs := s.regs.set r.toNat b r.isLt }
/-- `pc <- a` -/
def State.setPc (s : State) (a : Word) : State := { s with pc := a }
/-- `ir <- a` -/
def State.setIr (s : State) (a : Word) : State := { s with ir := a }
/-- `DT <- b` -/
def State.setDt (s : State) (b : Byte) : State := { s with dt := b }
/-- `ST <- b` -/
def State.setSt (s : State) (b : Byte) : State := { s with st := b }
/-- `run_state <- r` -/
def State.setRunState (s : State) (r : RunState) : State := { s with runState := r }
/-- `mem <- m` -/
def State.setMem (s : State) (m : Memory) : State := { s with mem := m }
/-- Replaces framebuffer, dirty grid and `was_cleared`. -/
def State.setDisplay (s : State) (d : Display) : State := { s with display := d }
/-- `keys_released <- k` -/
def State.setKeysReleased (s : State) (k : Word) : State := { s with keysReleased := k }
/-- Replaces the call stack's entries and its depth. -/
def State.setStack (s : State) (entries : List Word) (depth : Nat) : State := { s with stack := entries, sp := depth }
/-- Offers `r` to the tick in progress and numbers it (log 2). -/
def State.offerRand (s : State) (r : Byte) : State := { s with randByte := r, draws := s.draws + 1 }

/-- STACK_CAPACITY (10_state.md R14, log 3). -/
def State.stackCapacity (s : State) : Nat := s.stack.length

/-- The flag register `VF` (10_state.md R11). -/
abbrev VF : Nibble := 0xF#4

/-! ## Status, errors and the halt (60_exceptions.md) -/

/-- The status a tick returns is told by the run state it leaves: R151's table (log 9). -/
def RunState.status : RunState → Status
  | .running => .ok
  | .waitingForKey _ => .ok
  | .halted .explicitHalt => .halt
  | .halted (.runtimeError c i) => .runtimeError c i

/-- The numeric status codes of R150. -/
def Status.code : Status → Nat
  | .ok => 0
  | .halt => 1
  | .runtimeError _ _ => 2

/-- The numeric cause codes of R152. -/
def Cause.code : Cause → Nat
  | .stackOverflow => 1
  | .stackUnderflow => 2
  | .memoryOutOfRange => 3
  | .unknownOpcode => 4
  | .badKeyIndex => 5

/-- `raise RuntimeError(c, info)` (R153): the run state, and nothing else, changes; `pc` stays where it is. -/
def raise (c : Cause) (info : Word) (s : State) : Result := .next (s.setRunState (.halted (.runtimeError c info)))

/-- `raise Halt` (R154). -/
def raiseHalt (s : State) : Result := .next (s.setRunState (.halted .explicitHalt))

/-! ## The program counter (40_control.md R81) -/

/-- `pc <- trunc_16(pc + 2)`: the advance of every step and of a skip that is taken. -/
def State.advancePc (s : State) : State := s.setPc (s.pc + 2#16)

/-- `pc0`, the address the executing instruction was fetched from: in the execute part `pc` is `trunc_16(pc0 + 2)`
(R81; log 10). -/
def State.instrAddr (s : State) : Word := s.pc - 2#16

/-- The skip instructions' common effect (R86 to R89, 44_keys_timers.md R143, R144). -/
def skipIf (c : Bool) (s : State) : Result := .next (if c then s.advancePc else s)

/-! ## The call stack (10_state.md R14) -/

/-- Pushes `pc` and jumps to `target`; `w` is the word reported when the stack is full (40_control.md R85). -/
def pushAndJump (w target : Word) (s : State) : Result :=
  if s.sp = s.stackCapacity then raise .stackOverflow w s
  else if s.sp < s.stackCapacity then .next ((s.setStack (s.stack.set s.sp s.pc) (s.sp + 1)).setPc target)
  else .fault .stackEntryAbsent

/-- Pops into `pc`; `w` is the word reported when the stack is empty (40_control.md R83). The entry popped stays in its
place (10_state.md R14). -/
def popToPc (w : Word) (s : State) : Result :=
  if s.sp = 0 then raise .stackUnderflow w s
  else
    match s.stack[s.sp - 1]? with
    | some a => .next ((s.setStack s.stack (s.sp - 1)).setPc a)
    | none => .fault .stackEntryAbsent

/-! ## Checked memory accesses (20_memory.md R41) -/

/-- Stores `bs` at `a`, then applies `post`; raises `MemoryOutOfRange` with `w`, with no effect, when the range passes
the end of memory. -/
def storeBytes (w : Word) (a : Nat) (bs : List Byte) (post : State → State) (s : State) : Result :=
  match s.mem.writeBytes? a bs with
  | some m => .next (post (s.setMem m))
  | none => raise .memoryOutOfRange w s

/-- Reads the `n` bytes at `a` and hands them to `post`; raises `MemoryOutOfRange` with `w`, with no effect, when the
range passes the end of memory. -/
def loadBytes (w : Word) (a n : Nat) (post : List Byte → State → State) (s : State) : Result :=
  match s.mem.readBytes? a n with
  | some bs => .next (post bs s)
  | none => raise .memoryOutOfRange w s

/-- Writes `bs` to `V[i]`, `V[i+1]`, ... in ascending order. -/
def loadRegsFrom : Nat → List Byte → Vector Byte 16 → Vector Byte 16
  | _, [], v => v
  | i, b :: bs, v => loadRegsFrom (i + 1) bs (v.setIfInBounds i b)

/-- `bs` to `V[0]`, `V[1]`, ... (42_index_memory.md R125). -/
def State.loadRegs (bs : List Byte) (s : State) : State := { s with regs := loadRegsFrom 0 bs s.regs }

/-! ## The instruction fetch (40_control.md R81, 20_memory.md R42) -/

/-- The word at `pc`, high byte at the lower address; none where `pc + 1 >= MEM_SIZE`. -/
def fetchWord (s : State) : Option Word :=
  if s.pc.toNat + 1 < Config.memSize then
    some (wordOfBytes (s.mem.read s.pc.toNat) (s.mem.read (s.pc.toNat + 1)))
  else none

end Sys2Proof.Machine
end

