-- ==== Sys2Proof/Machine/Flags.lean ====
section
/-! DEFINITION. Every value an instruction writes to the flag register (spec/10_state.md R11, 41_alu.md): each is 0 or 1
and is written last (R113). -/

namespace Sys2Proof.Machine

/-- A flag as the byte 0 or 1 (10_state.md R11). -/
def flagByte (c : Bool) : Byte := if c then 0x01#8 else 0x00#8

/-- ADD_REG's carry, bit 8 of the 9-bit sum (41_alu.md R106). -/
def carryOut (a b : Byte) : Bool := decide (a.toNat + b.toNat > 255)

/-- SUB's and SUBN's not-borrow: minuend at least subtrahend (41_alu.md R107, R109). -/
def notBorrow (minuend subtrahend : Byte) : Bool := decide (minuend.toNat ≥ subtrahend.toNat)

/-- SHR's bit shifted out, `s[0]` (41_alu.md R108). -/
def shiftedOutRight (v : Byte) : Bool := v.getLsbD 0

/-- SHL's bit shifted out, `s[7]` (41_alu.md R110). -/
def shiftedOutLeft (v : Byte) : Bool := v.getLsbD 7

/-- The result to `V[x]` first, the flag to `VF` last (41_alu.md R113). -/
def writeWithFlag (x : Nibble) (result : Byte) (flag : Bool) (s : State) : Result :=
  .next ((s.setV x result).setV VF (flagByte flag))

end Sys2Proof.Machine
end

