-- ==== Sys2Proof/Machine/Operands.lean ====
section
/-! DEFINITION. The operand forms (spec/30_encoding.md R63): a register, an immediate used as it stands, and memory at
`ir` plus a running offset (42_index_memory.md, head). -/

namespace Sys2Proof.Machine

/-- `zext_16(nnn)`: the address immediate as a `pc` or `ir` value (R63). -/
def addrImm (nnn : Addr12) : Word := nnn.setWidth 16

/-- `zext_16(V[r])`: a register as an addend of an address. -/
def State.regAsAddr (s : State) (r : Nibble) : Word := (s.V r).setWidth 16

/-- The value SHR and SHL shift: `V[y]` where QUIRK_SHIFT_VY is set (legacy), `V[x]` where not (modern)
(41_alu.md R108, R110). -/
def State.shiftSource (s : State) (x y : Nibble) : Byte := if s.quirkShiftVy then s.V y else s.V x

/-- The effective address of data: `ir` as a natural number, to which offsets are added without wrap-around
(42_index_memory.md R126). -/
def State.dataAddr (s : State) : Nat := s.ir.toNat

/-- How many registers ST_REGS and LD_REGS move: `x + 1` (42_index_memory.md R124, R125). -/
def regCount (x : Nibble) : Nat := x.toNat + 1

/-- The bytes ST_REGS stores: `V[0]` to `V[x]` (42_index_memory.md R124). -/
def State.dumpBytes (s : State) (x : Nibble) : List Byte := s.regs.toList.take (regCount x)

/-- The quirk-gated index advance of ST_REGS and LD_REGS: `ir <- trunc_16(ir + x + 1)` where QUIRK_INDEX_ADVANCE is set
(42_index_memory.md R124, R125). -/
def State.advanceIndex (x : Nibble) (s : State) : State :=
  if s.quirkIndexAdvance then s.setIr (s.ir + BitVec.ofNat 16 (regCount x)) else s

/-- The address of the glyph of `v`: `trunc_16(5 * v)`, the whole 8-bit value (42_index_memory.md R122). -/
def glyphAddr (v : Byte) : Word := BitVec.ofNat 16 (Config.fontStride * v.toNat)

/-- The three decimal digits of `v`, hundreds first, one to a byte (42_index_memory.md R123). -/
def bcdDigits (v : Byte) : List Byte :=
  [BitVec.ofNat 8 (v.toNat / 100), BitVec.ofNat 8 (v.toNat / 10 % 10), BitVec.ofNat 8 (v.toNat % 10)]

end Sys2Proof.Machine
end

