-- ==== Sys2Proof/Machine/Alu.lean ====
section
/-! DEFINITION. Register loads, arithmetic, logic, shifts and the random byte (spec/41_alu.md R100 to R113). None of
them raises, accesses memory or changes `pc` (head of 41_alu.md). -/

namespace Sys2Proof.Machine

/-- LD_IMM (R100). -/
def execLdImm (x : Nibble) (kk : Byte) (s : State) : Result := .next (s.setV x kk)

/-- ADD_IMM (R101): modulo 256, no carry recorded. -/
def execAddImm (x : Nibble) (kk : Byte) (s : State) : Result := .next (s.setV x (s.V x + kk))

/-- LD_REG (R102). -/
def execLdReg (x y : Nibble) (s : State) : Result := .next (s.setV x (s.V y))

/-- OR (R103): `VF` is neither cleared nor set. -/
def execOr (x y : Nibble) (s : State) : Result := .next (s.setV x (s.V x ||| s.V y))

/-- AND (R104). -/
def execAnd (x y : Nibble) (s : State) : Result := .next (s.setV x (s.V x &&& s.V y))

/-- XOR (R105). -/
def execXor (x y : Nibble) (s : State) : Result := .next (s.setV x (s.V x ^^^ s.V y))

/-- ADD_REG (R106): the low byte of the sum, then the carry. -/
def execAddReg (x y : Nibble) (s : State) : Result :=
  writeWithFlag x (s.V x + s.V y) (carryOut (s.V x) (s.V y)) s

/-- SUB (R107): `Vx - Vy`, then not-borrow. -/
def execSub (x y : Nibble) (s : State) : Result :=
  writeWithFlag x (s.V x - s.V y) (notBorrow (s.V x) (s.V y)) s

/-- SUBN (R109): `Vy - Vx`, then not-borrow; the destination is still `V[x]`. -/
def execSubn (x y : Nibble) (s : State) : Result :=
  writeWithFlag x (s.V y - s.V x) (notBorrow (s.V y) (s.V x)) s

/-- SHR (R108): by one, the bit shifted out to `VF`. -/
def execShr (x y : Nibble) (s : State) : Result :=
  writeWithFlag x (s.shiftSource x y >>> 1) (shiftedOutRight (s.shiftSource x y)) s

/-- SHL (R110): by one, the bit shifted out to `VF`. -/
def execShl (x y : Nibble) (s : State) : Result :=
  writeWithFlag x (s.shiftSource x y <<< 1) (shiftedOutLeft (s.shiftSource x y)) s

/-- RND (R111): the tick's random byte under the mask `kk`. -/
def execRnd (x : Nibble) (kk : Byte) (s : State) : Result := .next (s.setV x (s.randByte &&& kk))

end Sys2Proof.Machine
end

