-- ==== Sys2Proof/Machine/Control.lean ====
section
/-! DEFINITION. SYS and the control transfers (spec/40_control.md R82 to R90). A meaning is the execute part of R81: it
runs on the state whose `pc` already is `trunc_16(pc0 + 2)` (log 11). No target is checked (R91). -/

namespace Sys2Proof.Machine

/-- SYS (R82): nothing. -/
def execSys (_nnn : Addr12) (s : State) : Result := .next s

/-- RET (R83). -/
def execRet (s : State) : Result := popToPc (encode .ret) s

/-- JP with the trap-jump halt (R84): the comparison is with `pc0`, and `pc` is left at the jump's own address. -/
def execJp (nnn : Addr12) (s : State) : Result :=
  if addrImm nnn = s.instrAddr then raiseHalt (s.setPc s.instrAddr) else .next (s.setPc (addrImm nnn))

/-- CALL (R85): the return address is the advanced `pc`. -/
def execCall (nnn : Addr12) (s : State) : Result := pushAndJump (encode (.call nnn)) (addrImm nnn) s

/-- SE_IMM (R86). -/
def execSeImm (x : Nibble) (kk : Byte) (s : State) : Result := skipIf (s.V x == kk) s

/-- SNE_IMM (R87). -/
def execSneImm (x : Nibble) (kk : Byte) (s : State) : Result := skipIf (s.V x != kk) s

/-- SE_REG (R88). -/
def execSeReg (x y : Nibble) (s : State) : Result := skipIf (s.V x == s.V y) s

/-- SNE_REG (R89). -/
def execSneReg (x y : Nibble) (s : State) : Result := skipIf (s.V x != s.V y) s

/-- JP_V0 (R90): the offset register is always `V[0]`, and there is no trap-jump rule. -/
def execJpV0 (nnn : Addr12) (s : State) : Result := .next (s.setPc (s.regAsAddr 0x0#4 + addrImm nnn))

end Sys2Proof.Machine
end

