-- ==== Sys2Proof/Machine/Index.lean ====
section
/-! DEFINITION. The index register and the memory-block instructions (spec/42_index_memory.md R120 to R126). None
writes `VF` as a flag; the bounds check comes before any effect. -/

namespace Sys2Proof.Machine

/-- LD_I (R120). -/
def execLdI (nnn : Addr12) (s : State) : Result := .next (s.setIr (addrImm nnn))

/-- ADD_I_VX (R121): modulo 2^16, no flag. -/
def execAddIVx (x : Nibble) (s : State) : Result := .next (s.setIr (s.ir + s.regAsAddr x))

/-- LD_F_VX (R122). -/
def execLdFVx (x : Nibble) (s : State) : Result := .next (s.setIr (glyphAddr (s.V x)))

/-- LD_B_VX (R123): `ir` is not changed. -/
def execLdBVx (x : Nibble) (s : State) : Result :=
  storeBytes (encode (.ldBVx x)) s.dataAddr (bcdDigits (s.V x)) id s

/-- ST_REGS (R124). -/
def execStRegs (x : Nibble) (s : State) : Result :=
  storeBytes (encode (.stRegs x)) s.dataAddr (s.dumpBytes x) (State.advanceIndex x) s

/-- LD_REGS (R125). -/
def execLdRegs (x : Nibble) (s : State) : Result :=
  loadBytes (encode (.ldRegs x)) s.dataAddr (regCount x)
    (fun bs t => State.advanceIndex x (t.loadRegs bs)) s

end Sys2Proof.Machine
end

