-- ==== Sys2Proof/Machine/Device.lean ====
section
/-! DEFINITION. The device's own operations: the framebuffer with its dirty grid (spec/43_display.md R131 to R133) and
the keys (44_keys_timers.md R140, R141). -/

namespace Sys2Proof.Machine

/-! ## The grid -/

/-- The cell at column `cx`, row `cy`. -/
def Grid.cell (g : Grid) (cx : Fin Config.displayW) (cy : Fin Config.displayH) : Bool := (g[cy.val]'cy.isLt)[cx.val]'cx.isLt

/-- The grid with the cell at column `cx`, row `cy` replaced by `b`. -/
def Grid.setCell (g : Grid) (cx : Fin Config.displayW) (cy : Fin Config.displayH) (b : Bool) : Grid :=
  g.set cy.val ((g[cy.val]'cy.isLt).set cx.val b cx.isLt) cy.isLt

/-- Some cell is set. -/
def Grid.any (g : Grid) : Bool := g.toList.any fun row => row.toList.any id

/-! ## The display -/

/-- `any_update`: the OR of every cell of `dirty` (10_state.md R21). -/
def Display.anyUpdate (d : Display) : Bool := Grid.any d.dirty

/-- `clear()` (R131): every pixel unlit, every cell dirty, `was_cleared` set. -/
def Display.clear (_ : Display) : Display :=
  { fb := Grid.filled false, dirty := Grid.filled true, wasCleared := true }

/-- Coordinates wrap (R132). -/
def wrapX (px : Nat) : Fin Config.displayW := ⟨px % Config.displayW, Nat.mod_lt _ (by decide)⟩
/-- Coordinates wrap (R132). -/
def wrapY (py : Nat) : Fin Config.displayH := ⟨py % Config.displayH, Nat.mod_lt _ (by decide)⟩

/-- `draw_pixel(px, py)` (R132): toggles the wrapped cell, marks it dirty; the collision bit is the cell's old value. -/
def Display.drawPixel (d : Display) (px py : Nat) : Bool × Display :=
  let old := Grid.cell d.fb (wrapX px) (wrapY py)
  (old, { d with fb := Grid.setCell d.fb (wrapX px) (wrapY py) (!old),
                 dirty := Grid.setCell d.dirty (wrapX px) (wrapY py) true })

/-- Draws pixels one after another; the collision bit is the OR of theirs (R135). -/
def Display.drawPixels : List (Nat × Nat) → Display → Bool × Display
  | [], d => (false, d)
  | (px, py) :: ps, d =>
    let (c, d1) := d.drawPixel px py
    let (cs, d2) := Display.drawPixels ps d1
    (c || cs, d2)

/-- The pixels of one sprite row: for `k` from 0 (leftmost) to 7, bit `7 - k` of the byte stands for column `x0 + k`
(R135). -/
def spriteRowPixels (b : Byte) (x0 py : Nat) : List (Nat × Nat) :=
  ((List.range 8).filter fun k => b.getLsbD (7 - k)).map fun k => (x0 + k, py)

/-- The pixels of a sprite, one byte to a row, rows downward from `py` (R135). -/
def spritePixels : List Byte → Nat → Nat → List (Nat × Nat)
  | [], _, _ => []
  | b :: bs, x0, py => spriteRowPixels b x0 py ++ spritePixels bs x0 (py + 1)

/-- `reset_display_flags()` (R133): only if some cell is dirty, clears every marker and `was_cleared`. -/
def Display.resetFlags (d : Display) : Display :=
  if d.anyUpdate then { d with dirty := Grid.filled false, wasCleared := false } else d

/-! ## The keys -/

/-- `key_pressed(k)` (R140). -/
def State.keyPressed (s : State) (k : Nat) : Bool := s.keysPressed.getLsbD k

/-- The lowest-numbered set bit of a key mask (R141). -/
def lowestKey (mask : Word) : Option Nat := (List.range 16).find? fun k => mask.getLsbD k

/-- `read_any_key()` (R141): the lowest released key, and the WHOLE mask is cleared; none, and nothing changes, when no
key was released. -/
def State.readAnyKey (s : State) : Option Nat × State :=
  match lowestKey s.keysReleased with
  | none => (none, s)
  | some k => (some k, s.setKeysReleased 0x0000#16)

end Sys2Proof.Machine
end

