-- ==== Sys2Proof/Machine/KeysTimers.lean ====
section
/-! DEFINITION. The key and timer instructions (spec/44_keys_timers.md R143 to R149). -/

namespace Sys2Proof.Machine

/-- The key number held by `V[x]`, or `BadKeyIndex` with `w` when it is above 15; else a skip when the key's pressed bit
is `want` (R143, R144). -/
def skipOnKey (w : Word) (x : Nibble) (want : Bool) (s : State) : Result :=
  if (s.V x).toNat > 15 then raise .badKeyIndex w s else skipIf (s.keyPressed (s.V x).toNat == want) s

/-- SKP (R143). -/
def execSkp (x : Nibble) (s : State) : Result := skipOnKey (encode (.skp x)) x true s

/-- SKNP (R144). -/
def execSknp (x : Nibble) (s : State) : Result := skipOnKey (encode (.sknp x)) x false s

/-- LD_VX_K (R145): only the run state changes; the wait is carried out by the following ticks. -/
def execLdVxK (x : Nibble) (s : State) : Result := .next (s.setRunState (.waitingForKey x))

/-- The waiting tick (R149). -/
def pollKey (xw : Nibble) (s : State) : Result :=
  match s.readAnyKey with
  | (none, _) => .next s
  | (some k, t) => .next ((t.setV xw (BitVec.ofNat 8 k)).setRunState .running)

/-- LD_VX_DT (R146). -/
def execLdVxDt (x : Nibble) (s : State) : Result := .next (s.setV x s.dt)

/-- LD_DT_VX (R147). -/
def execLdDtVx (x : Nibble) (s : State) : Result := .next (s.setDt (s.V x))

/-- LD_ST_VX (R148; 90_conflicts.md C4): unconditional and immediate. -/
def execLdStVx (x : Nibble) (s : State) : Result := .next (s.setSt (s.V x))

end Sys2Proof.Machine
end

