-- ==== Sys2Proof/Machine/Screen.lean ====
section
/-! DEFINITION. The display instructions (spec/43_display.md R134, R135). -/

namespace Sys2Proof.Machine

/-- CLS (R134). -/
def execCls (s : State) : Result := .next (s.setDisplay s.display.clear)

/-- What DRW does with the bytes `rows` of its sprite, at the coordinates `V[x]`, `V[y]` read before `VF` is written
(R135). -/
def drawSprite (x y : Nibble) (rows : List Byte) (s : State) : State :=
  let drawn := Display.drawPixels (spritePixels rows (s.V x).toNat (s.V y).toNat) s.display
  (s.setDisplay drawn.2).setV VF (flagByte drawn.1)

/-- DRW (R135): `n` bytes at `ir`; with `n = 0` no memory is read and `VF` becomes 0. -/
def execDrw (x y n : Nibble) (s : State) : Result :=
  loadBytes (encode (.drw x y n)) s.dataAddr n.toNat (drawSprite x y) s

end Sys2Proof.Machine
end

