-- ==== Sys2Proof/Machine/Tick.lean ====
section
/-! DEFINITION. The tick (spec/40_control.md R80, R81). -/

namespace Sys2Proof.Machine

/-- The step of a running machine (R81): fetch, advance, decode, execute. A fetch past the end of memory raises
`MemoryOutOfRange` with the fetch address and leaves `pc`; an unknown word raises `UnknownOpcode` after the advance
(30_encoding.md R66). -/
def fetchAndExecute (rand : Byte) (s : State) : Result :=
  match fetchWord s with
  | none => raise .memoryOutOfRange s.pc (s.offerRand rand)
  | some w =>
    match decodeWord s.sysNoop w with
    | .instr i => exec i (s.offerRand rand).advancePc
    | .unknown w' => raise .unknownOpcode w' (s.offerRand rand).advancePc

/-- `tick(rand_byte)` (R80): a halted machine does not change, a waiting one polls the keys, a running one executes one
instruction. -/
def tick (rand : Byte) (s : State) : Result :=
  match s.runState with
  | .halted _ => .next s
  | .waitingForKey xw => pollKey xw s
  | .running => fetchAndExecute rand s

/-- The status the tick returns (60_exceptions.md R150, R151; log 9): none where the model stops. -/
def tickStatus (rand : Byte) (s : State) : Option Status :=
  match tick rand s with
  | .next t => some t.runState.status
  | .fault _ => none
  | .refused _ => none

end Sys2Proof.Machine
end

