-- ==== Sys2Proof/Machine/HostOps.lean ====
section
/-! DEFINITION. The host's operations other than the tick, the host's read-outs, and the one function that runs a
scheduled operation (spec/00_scope.md R3). Each is accepted in every run state (60_exceptions.md R151; D33). -/

namespace Sys2Proof.Machine

/-- A timer counts down and stays at zero (60_exceptions.md R162). -/
def countDown (b : Byte) : Byte := if b.toNat > 0 then b - 1#8 else b

/-- `timer_decrement()` (60_exceptions.md R162). -/
def timerDecrement (s : State) : State := (s.setDt (countDown s.dt)).setSt (countDown s.st)

/-- `set_keys(pressed, released)` (44_keys_timers.md R142): both masks are replaced. -/
def setKeys (pressed released : Word) (s : State) : State :=
  { s with keysPressed := pressed, keysReleased := released }

/-- `set_quirks(shift_vy, index_advance)` (70_reset_and_hazards.md R183). -/
def setQuirks (shiftVy indexAdvance : Bool) (s : State) : State :=
  { s with quirkShiftVy := shiftVy, quirkIndexAdvance := indexAdvance }

/-- `reset()` (70_reset_and_hazards.md R180): memory and the quirk flags keep their values; the stack entries, whose
value the spec leaves open, do too (log 8). -/
def hostReset (s : State) : State :=
  { s with
    regs := Vector.replicate 16 0x00#8, ir := 0x0000#16, pc := BitVec.ofNat 16 Config.programOrigin, sp := 0,
    dt := 0x00#8, st := 0x00#8, runState := .running,
    display := { fb := Grid.filled false, dirty := Grid.filled false, wasCleared := false },
    keysPressed := 0x0000#16, keysReleased := 0x0000#16 }

/-- `reset_display_flags()` (43_display.md R133). -/
def resetDisplayFlags (s : State) : State := s.setDisplay s.display.resetFlags

/-- `mem_write(addr, bytes)` (20_memory.md R53): refused, with no step, where the range would pass MEM_SIZE. -/
def memWrite (addr : Nat) (bytes : List Byte) (s : State) : Result :=
  match s.mem.writeBytes? addr bytes with
  | some m => .next (s.setMem m)
  | none => .refused .hostWriteOutOfRange

/-- One operation of the host (00_scope.md R3). -/
def runHostOp (op : HostOp) (s : State) : Result :=
  match op with
  | .tick rand => tick rand s
  | .timerDecrement => .next (timerDecrement s)
  | .setKeys pressed released => .next (setKeys pressed released s)
  | .setQuirks shiftVy indexAdvance => .next (setQuirks shiftVy indexAdvance s)
  | .reset => .next (hostReset s)
  | .resetDisplayFlags => .next (resetDisplayFlags s)
  | .memWrite addr bytes => memWrite addr bytes s

/-! ## Read-outs (43_display.md R137, 60_exceptions.md R151, R163) -/

/-- `any_update` (10_state.md R21). -/
def State.anyUpdate (s : State) : Bool := s.display.anyUpdate

/-- `sound_active` (60_exceptions.md R163). -/
def State.soundActive (s : State) : Bool := s.st != 0x00#8

/-- What the host reads between ticks (00_scope.md R3). -/
structure ReadOut where
  fb          : Grid
  dirty       : Grid
  anyUpdate   : Bool
  wasCleared  : Bool
  runState    : RunState
  soundActive : Bool
  deriving DecidableEq, Repr

/-- The read-outs of a state: reading changes nothing (R137). -/
def State.readOut (s : State) : ReadOut :=
  { fb := s.display.fb, dirty := s.display.dirty, anyUpdate := s.anyUpdate, wasCleared := s.display.wasCleared,
    runState := s.runState, soundActive := s.soundActive }

end Sys2Proof.Machine
end

