-- ==== Sys2Proof/Machine/Step.lean ====
section
/-! DEFINITION. The step of the model: one host operation (spec/00_scope.md R2, R3), and the placing of an instruction
where the next step fetches it. -/

namespace Sys2Proof.Machine

/-- The next operation of the host's schedule; with none left the host ticks, and the random byte of the tick is a free
value (log 1, log 2). -/
def step (s : State) : Host.Outcome State Fault Refusal :=
  match s.schedule with
  | [] => tick (Config.freeRandByte s.draws) s
  | op :: ops => runHostOp op { s with schedule := ops }

/-- `s` with the instruction word `w` stored at `pc` and the machine about to tick there (log 14): Running, no scheduled
operation before the tick, and a `pc` that cannot be fetched from put back to PROGRAM_ORIGIN. -/
def State.withFetchWord (s : State) (nbits w : Nat) : State :=
  let word : Word := BitVec.ofNat 16 (w % 2 ^ nbits)
  let a : Word := if s.pc.toNat + 1 < Config.memSize then s.pc else BitVec.ofNat 16 Config.programOrigin
  { s with
    pc := a, runState := .running, schedule := [],
    mem := Memory.writeAll s.mem a.toNat [highByte word, lowByte word] }

end Sys2Proof.Machine
end

