-- ==== Sys2Proof/Safety.lean ====
section
/-! DEFINITION. The terms in which claims are stated: the machine's invariant, the frames (what a meaning leaves
unchanged), the sprite of a DRW as a set of cells, and running several instructions one after another. -/

namespace Sys2Proof.Machine

/-! ## The invariant -/

/-- What every run keeps: memory in canonical form within `0 .. MEM_SIZE-1` (spec/20_memory.md R40), a call stack of at
least one entry whose depth is at most its capacity (10_state.md R14; 92_eei_decisions.md D8), and a `was_cleared` that
is set only while some cell is dirty (43_display.md R133). -/
def State.Inv (s : State) : Prop :=
  Memory.wf s.mem = true ∧ 1 ≤ s.stackCapacity ∧ s.sp ≤ s.stackCapacity ∧
    (s.display.wasCleared = true → s.display.anyUpdate = true)

/-- A host operation the model has a step for: every one but a `mem_write` past the end of memory (20_memory.md R53). -/
def hostOpOk : HostOp → Bool
  | .memWrite addr bytes => Memory.inRange addr bytes.length
  | .tick _ | .timerDecrement | .setKeys _ _ | .setQuirks _ _ | .reset | .resetDisplayFlags => true

/-! ## Frames -/

/-- `t` is `s` but for the general registers in `written`: every other register, and everything that is not a general
register, is the same. -/
def OnlyRegs (written : List Nibble) (s t : State) : Prop :=
  t = { s with regs := t.regs } ∧ ∀ r, r ∉ written → t.V r = s.V r

/-- Every byte of memory outside the `n` bytes at `a` reads the same in `t` as in `s`. -/
def SameBytesOutside (a n : Nat) (s t : State) : Prop :=
  ∀ b, ¬ (a ≤ b ∧ b < a + n) → t.mem.read b = s.mem.read b

/-- `s` halted by the runtime error `c` with `info`, and otherwise unchanged (60_exceptions.md R153). -/
def State.haltedBy (s : State) (c : Cause) (info : Word) : State :=
  { s with runState := .halted (.runtimeError c info) }

/-- `s` with another dirty grid and another `was_cleared`: what no instruction reads (10_state.md R21). -/
def State.withDisplayFlags (s : State) (dirty : Grid) (wasCleared : Bool) : State :=
  { s with display := { fb := s.display.fb, dirty := dirty, wasCleared := wasCleared } }

/-! ## Sprites -/

/-- Some set bit of the `n`-row sprite at `ir`, drawn at `(V[x], V[y])`, falls on the cell `(cx, cy)` (43_display.md
R132, R135). -/
def SpriteCovers (s : State) (x y n : Nibble) (cx : Fin Config.displayW) (cy : Fin Config.displayH) : Prop :=
  ∃ r k, r < n.toNat ∧ k < 8 ∧ (s.mem.read (s.ir.toNat + r)).getLsbD (7 - k) = true ∧
    ((s.V x).toNat + k) % Config.displayW = cx.val ∧ ((s.V y).toNat + r) % Config.displayH = cy.val

/-- The sprite of a DRW lies within memory: `n = 0` reads nothing (43_display.md R135). -/
def SpriteInMemory (s : State) (n : Nibble) : Prop := n.toNat = 0 ∨ s.ir.toNat + n.toNat - 1 < Config.memSize

/-! ## Sequences -/

/-- The execute parts of `is`, one after another, stopping at the first fault or refusal. -/
def execAll : List Instr → State → Result
  | [], s => .next s
  | i :: is, s =>
    match exec i s with
    | .next t => execAll is t
    | .fault f => .fault f
    | .refused r => .refused r

/-! ## Lists of instructions the spec's whole-machine sentences name -/

/-- The instructions that write `VF` as a side effect: "exactly ADD_REG, SUB and SUBN, SHR and SHL and DRW"
(10_state.md R11). -/
def writesFlag : Instr → Bool
  | .addReg _ _ | .sub _ _ | .subn _ _ | .shr _ _ | .shl _ _ | .drw _ _ _ => true
  | .cls | .ret | .sys _ | .jp _ | .call _ | .seImm _ _ | .sneImm _ _ | .seReg _ _ | .ldImm _ _ | .addImm _ _
  | .ldReg _ _ | .orReg _ _ | .andReg _ _ | .xorReg _ _ | .sneReg _ _ | .ldI _ | .jpV0 _ | .rnd _ _ | .skp _
  | .sknp _ | .ldVxDt _ | .ldVxK _ | .ldDtVx _ | .ldStVx _ | .addIVx _ | .ldFVx _ | .ldBVx _ | .stRegs _
  | .ldRegs _ => false

/-- The general registers an instruction writes as its destination in the tick that executes it (10_state.md R10):
`V[x]`, or `V[0]` to `V[x]` for LD_REGS. LD_VX_K writes its register in a later tick (44_keys_timers.md R149). -/
def isDestination (r : Nibble) : Instr → Bool
  | .ldImm x _ | .addImm x _ | .ldReg x _ | .orReg x _ | .andReg x _ | .xorReg x _ | .addReg x _ | .sub x _
  | .shr x _ | .subn x _ | .shl x _ | .rnd x _ | .ldVxDt x => r == x
  | .ldRegs x => r ≤ x
  | .cls | .ret | .sys _ | .jp _ | .call _ | .seImm _ _ | .sneImm _ _ | .seReg _ _ | .sneReg _ _ | .ldI _ | .jpV0 _
  | .drw _ _ _ | .skp _ | .sknp _ | .ldVxK _ | .ldDtVx _ | .ldStVx _ | .addIVx _ | .ldFVx _ | .ldBVx _
  | .stRegs _ => false

/-- The condition under which an instruction raises a runtime error, and its cause: the table of 60_exceptions.md R152,
in the execute part. -/
def raisesIn (s : State) : Instr → Option Cause
  | .call _ => if s.sp = s.stackCapacity then some .stackOverflow else none
  | .ret => if s.sp = 0 then some .stackUnderflow else none
  | .stRegs x => if s.ir.toNat + x.toNat ≥ Config.memSize then some .memoryOutOfRange else none
  | .ldRegs x => if s.ir.toNat + x.toNat ≥ Config.memSize then some .memoryOutOfRange else none
  | .ldBVx _ => if s.ir.toNat + 2 ≥ Config.memSize then some .memoryOutOfRange else none
  | .drw _ _ n =>
    if n.toNat > 0 ∧ s.ir.toNat + n.toNat - 1 ≥ Config.memSize then some .memoryOutOfRange else none
  | .skp x => if (s.V x).toNat > 15 then some .badKeyIndex else none
  | .sknp x => if (s.V x).toNat > 15 then some .badKeyIndex else none
  | .cls | .sys _ | .jp _ | .seImm _ _ | .sneImm _ _ | .seReg _ _ | .ldImm _ _ | .addImm _ _ | .ldReg _ _
  | .orReg _ _ | .andReg _ _ | .xorReg _ _ | .addReg _ _ | .sub _ _ | .shr _ _ | .subn _ _ | .shl _ _
  | .sneReg _ _ | .ldI _ | .jpV0 _ | .rnd _ _ | .ldVxDt _ | .ldVxK _ | .ldDtVx _ | .ldStVx _ | .addIVx _
  | .ldFVx _ => none

end Sys2Proof.Machine
end

