-- ==== Sys2Proof/Certificates/Slice0/Obligations.lean ====
section
/-! DEFINITION. The statements for the provers, each from the numbered rules of spec/. "Log n" is the row
notes/assumptions/n.md; "D n" is a decision of spec/92_eei_decisions.md, the spec's own choice. In a statement about the
execute part of a tick, `pc` is the advanced `pc` (40_control.md R81; log 11), so that an instruction's own address `pc0`
is `s.pc - 2`. Every parameter the spec leaves OPEN is a field of the state, so a statement about every state holds for
every value of it. -/

open Sys2Proof Sys2Proof.Machine

/-! ## Encoding (30_encoding.md) -/

/-- Words written out from the patterns of R64, at least one for every top nibble, decode to the instruction they stand for;
two unknown words are rejected. The numbers are the spec's decision D1, the SYS word rests on the reference SYS_NOOP
(log 4). -/
def Obligations.SpecWordsDecodeToTheirInstructions : Prop :=
  decodeTableWord 16 0b0000000011100000 = some .cls ∧
  decodeTableWord 16 0b0000000011101110 = some .ret ∧
  decodeTableWord 16 0b0000000100100011 = some (.sys 0x123#12) ∧
  decodeTableWord 16 0b0001001000001000 = some (.jp 0x208#12) ∧
  decodeTableWord 16 0b0010101010111100 = some (.call 0xABC#12) ∧
  decodeTableWord 16 0b0011000000101010 = some (.seImm 0x0#4 0x2A#8) ∧
  decodeTableWord 16 0b0100000111111111 = some (.sneImm 0x1#4 0xFF#8) ∧
  decodeTableWord 16 0b0101000100100000 = some (.seReg 0x1#4 0x2#4) ∧
  decodeTableWord 16 0b0110101000101100 = some (.ldImm 0xA#4 0x2C#8) ∧
  decodeTableWord 16 0b0111000011111111 = some (.addImm 0x0#4 0xFF#8) ∧
  decodeTableWord 16 0b1000000100101110 = some (.shl 0x1#4 0x2#4) ∧
  decodeTableWord 16 0b1001000100100000 = some (.sneReg 0x1#4 0x2#4) ∧
  decodeTableWord 16 0b1010001100000000 = some (.ldI 0x300#12) ∧
  decodeTableWord 16 0b1011001100000000 = some (.jpV0 0x300#12) ∧
  decodeTableWord 16 0b1100001100001111 = some (.rnd 0x3#4 0x0F#8) ∧
  decodeTableWord 16 0b1101000100100010 = some (.drw 0x1#4 0x2#4 0x2#4) ∧
  decodeTableWord 16 0b1110000010011110 = some (.skp 0x0#4) ∧
  decodeTableWord 16 0b1111111101100101 = some (.ldRegs 0xF#4) ∧
  decodeTableWord 16 0b0101000100100001 = none ∧
  decodeTableWord 16 0b1111000001110101 = none

/-- Decode and encode agree: every well-formed instruction, at every value of its operands, is what its word decodes to
(R61, R62, R64, R65). A SYS word decodes to SYS only where the open parameter SYS_NOOP accepts it (R67). -/
def Obligations.DecodeOfEncodeIsTheInstruction : Prop :=
  ∀ (p : SysNoop) (i : Instr), wellFormed i = true → (∀ nnn, i = .sys nnn → sysNoopHolds p nnn = true) →
    decodeWord p (encode i) = .instr i

/-- The other direction: a word that decodes to an instruction is that instruction's word, bit for bit (no bit of any
word is ignored, 93_implementation_defined.md U24), and a word that does not is reported whole (R65, R66). -/
def Obligations.EncodeOfTheDecodedInstructionIsTheWord : Prop :=
  ∀ (p : SysNoop) (w : Word),
    (∀ i, decodeWord p w = .instr i → encode i = w ∧ wellFormed i = true) ∧
    (∀ w', decodeWord p w = .unknown w' → w' = w)

/-- The decoder, which dispatches on nibbles, reads every word as the match and mask table of R64 does, whose larger
mask wins; a word of the SYS row is SYS exactly where SYS_NOOP accepts it (R64, R65, R67; D1). -/
def Obligations.DecodeAgreesWithTheMatchAndMaskTable : Prop :=
  ∀ (p : SysNoop) (w : Word),
    (∀ i, decodeWord p w = .instr i →
      (tableRow w).map OpRow.mnemonic = some (mnemonic i) ∧
        (∀ nnn, i = .sys nnn → sysNoopHolds p (nnnField w) = true)) ∧
    (∀ w', decodeWord p w = .unknown w' →
      tableRow w = none ∨
        ((tableRow w).map OpRow.mnemonic = some "SYS" ∧ sysNoopHolds p (nnnField w) = false))

/-- The unknown words are exactly those R66 lists (D13). -/
def Obligations.UnknownWordsAreExactlyThoseListed : Prop :=
  ∀ (p : SysNoop) (w : Word),
    decodeWord p w = .unknown w ↔
      (opField w = 0x0#4 ∧ w ≠ 0x00E0#16 ∧ w ≠ 0x00EE#16 ∧ sysNoopHolds p (nnnField w) = false) ∨
      (opField w = 0x5#4 ∧ nField w ≠ 0x0#4) ∨
      (opField w = 0x8#4 ∧ nField w ∈ [0x8#4, 0x9#4, 0xA#4, 0xB#4, 0xC#4, 0xD#4, 0xF#4]) ∨
      (opField w = 0x9#4 ∧ nField w ≠ 0x0#4) ∨
      (opField w = 0xE#4 ∧ kkField w ∉ [0x9E#8, 0xA1#8]) ∨
      (opField w = 0xF#4 ∧
        kkField w ∉ [0x07#8, 0x0A#8, 0x15#8, 0x18#8, 0x1E#8, 0x29#8, 0x33#8, 0x55#8, 0x65#8])

/-! ## The tick (40_control.md R80, R81) -/

/-- A step of a running machine whose bytes at `pc` decode to `i` is the execute part of `i`, on the state with `pc`
advanced by 2, both for a tick outside a schedule (whose random byte is the free value, log 2) and for a scheduled
one. -/
def Obligations.StepRunsTheDecodedInstruction : Prop :=
  ∀ (s : State) (i : Instr), s.runState = .running → s.pc.toNat + 1 < Config.memSize →
    decodeBytes s.sysNoop (s.mem.read s.pc.toNat) (s.mem.read (s.pc.toNat + 1)) = .instr i →
    (s.schedule = [] →
      step s = exec i { s with pc := s.pc + 2#16, randByte := Config.freeRandByte s.draws, draws := s.draws + 1 }) ∧
    (∀ r ops, s.schedule = .tick r :: ops →
      step s = exec i { s with pc := s.pc + 2#16, randByte := r, draws := s.draws + 1, schedule := ops })

/-- A running tick that cannot fetch two bytes halts with `MemoryOutOfRange` and the fetch address, `pc` left there
(D14, D21); one that fetches an unknown word halts with `UnknownOpcode` and the word, `pc` advanced (D21). Nothing else
of the machine changes (`randByte` and `draws` are the model's own, log 2). -/
def Obligations.FetchPastTheEndAndUnknownWordsHalt : Prop :=
  ∀ (r : Byte) (s : State), s.runState = .running →
    (¬ s.pc.toNat + 1 < Config.memSize →
      tick r s = .next { s with
        runState := .halted (.runtimeError .memoryOutOfRange s.pc), randByte := r, draws := s.draws + 1 }) ∧
    (∀ w, s.pc.toNat + 1 < Config.memSize →
      decodeBytes s.sysNoop (s.mem.read s.pc.toNat) (s.mem.read (s.pc.toNat + 1)) = .unknown w →
      tick r s = .next { s with
        pc := s.pc + 2#16, runState := .halted (.runtimeError .unknownOpcode w), randByte := r,
        draws := s.draws + 1 })

/-- A tick in a halted state changes nothing and returns the status of the halt again (R80; the repeated status is
D20). -/
def Obligations.HaltedTickChangesNothing : Prop :=
  ∀ (r : Byte) (s : State),
    (s.runState = .halted .explicitHalt → tick r s = .next s ∧ tickStatus r s = some .halt) ∧
    (∀ c info, s.runState = .halted (.runtimeError c info) →
      tick r s = .next s ∧ tickStatus r s = some (.runtimeError c info))

/-- The waiting tick (44_keys_timers.md R149, R141; D19): with no key released nothing changes; else the lowest released
key goes to the latched register, the WHOLE released mask is cleared and the machine runs again. The status is Ok in
both cases. -/
def Obligations.WaitingTickPollsTheReleasedKeys : Prop :=
  ∀ (r : Byte) (xw : Nibble) (s : State), s.runState = .waitingForKey xw →
    tickStatus r s = some .ok ∧
    (s.keysReleased = 0x0000#16 → tick r s = .next s) ∧
    (s.keysReleased ≠ 0x0000#16 →
      ∃ (k : Nat) (t : State), tick r s = .next t ∧ k < 16 ∧ s.keysReleased.getLsbD k = true ∧
        (∀ j < k, s.keysReleased.getLsbD j = false) ∧
        t = { s with regs := t.regs, keysReleased := 0x0000#16, runState := .running } ∧
        (t.V xw).toNat = k ∧ ∀ q, q ≠ xw → t.V q = s.V q)

/-! ## Control transfers (40_control.md) -/

/-- SYS changes nothing but the normal advance of `pc` (R82). -/
def Obligations.SysChangesNothing : Prop :=
  ∀ (nnn : Addr12) (s : State), exec (.sys nnn) s = .next s

/-- RET (R83): with a saved address, `sp` falls by one and `pc` is the newest entry, which stays in its place; with an
empty stack it raises `StackUnderflow` with the word 0x00EE and does nothing else. The premise is R14's invariant. -/
def Obligations.ReturnPopsTheNewestEntry : Prop :=
  ∀ s : State, s.sp ≤ s.stackCapacity →
    (s.sp ≠ 0 → ∃ t a, exec .ret s = .next t ∧ s.stack[s.sp - 1]? = some a ∧
      t = { s with pc := a, sp := s.sp - 1 }) ∧
    (s.sp = 0 → exec .ret s = .next (s.haltedBy .stackUnderflow 0x00EE#16))

/-- JP (R84): an ordinary jump writes `pc`; a jump to its own address `pc0` is the explicit halt, with `pc` left at
`pc0` (D21). Nothing else changes. -/
def Obligations.JumpSetsPcAndSelfJumpHalts : Prop :=
  ∀ (nnn : Addr12) (s : State),
    (nnn.toNat ≠ (s.pc - 2#16).toNat →
      ∃ t, exec (.jp nnn) s = .next t ∧ t = { s with pc := t.pc } ∧ t.pc.toNat = nnn.toNat) ∧
    (nnn.toNat = (s.pc - 2#16).toNat →
      exec (.jp nnn) s = .next { s with pc := s.pc - 2#16, runState := .halted .explicitHalt })

/-- CALL (R85): with room, the advanced `pc` is stored at `stack[sp]`, `sp` rises by one and `pc` is the target; on a
full stack it raises `StackOverflow` with its word, pushes nothing and does not jump. The premise is R14's
invariant. -/
def Obligations.CallPushesTheReturnAddress : Prop :=
  ∀ (nnn : Addr12) (s : State), s.sp ≤ s.stackCapacity →
    (s.sp ≠ s.stackCapacity →
      ∃ t, exec (.call nnn) s = .next t ∧ t = { s with pc := t.pc, stack := t.stack, sp := s.sp + 1 } ∧
        t.pc.toNat = nnn.toNat ∧ t.stack[s.sp]? = some s.pc ∧ t.stackCapacity = s.stackCapacity ∧
        ∀ k, k ≠ s.sp → t.stack[k]? = s.stack[k]?) ∧
    (s.sp = s.stackCapacity → exec (.call nnn) s = .next (s.haltedBy .stackOverflow (encode (.call nnn))))

/-- The four skips (R86 to R89): `pc` moves on by 2 exactly when the comparison holds, and nothing else changes. -/
def Obligations.SkipsMovePcByTwoWhenTheirTestHolds : Prop :=
  ∀ (x y : Nibble) (kk : Byte) (s : State),
    exec (.seImm x kk) s = .next { s with pc := if s.V x = kk then s.pc + 2#16 else s.pc } ∧
    exec (.sneImm x kk) s = .next { s with pc := if s.V x = kk then s.pc else s.pc + 2#16 } ∧
    exec (.seReg x y) s = .next { s with pc := if s.V x = s.V y then s.pc + 2#16 else s.pc } ∧
    exec (.sneReg x y) s = .next { s with pc := if s.V x = s.V y then s.pc else s.pc + 2#16 }

/-- JP_V0 (R90): `pc` is `V[0] + nnn`, a sum that never wraps; nothing else changes, and there is no trap-jump rule. -/
def Obligations.JumpWithOffsetAddsV0 : Prop :=
  ∀ (nnn : Addr12) (s : State), ∃ t, exec (.jpV0 nnn) s = .next t ∧ t = { s with pc := t.pc } ∧
    t.pc.toNat = (s.V 0x0#4).toNat + nnn.toNat

/-! ## Arithmetic and logic (41_alu.md) -/

/-- LD_IMM, ADD_IMM and LD_REG (R100 to R102) write `V[x]` and nothing else: no flag, no memory, no `pc`. -/
def Obligations.LoadAddImmediateAndCopy : Prop :=
  ∀ (x y : Nibble) (kk : Byte) (s : State),
    (∃ t, exec (.ldImm x kk) s = .next t ∧ t.V x = kk ∧ OnlyRegs [x] s t) ∧
    (∃ t, exec (.addImm x kk) s = .next t ∧ (t.V x).toNat = ((s.V x).toNat + kk.toNat) % 256 ∧ OnlyRegs [x] s t) ∧
    (∃ t, exec (.ldReg x y) s = .next t ∧ t.V x = s.V y ∧ OnlyRegs [x] s t)

/-- OR, AND and XOR (R103 to R105), bit by bit; `VF` is neither cleared nor set. -/
def Obligations.BitwiseOperationsLeaveTheFlag : Prop :=
  ∀ (x y : Nibble) (s : State),
    (∃ t, exec (.orReg x y) s = .next t ∧
      (∀ k < 8, (t.V x).getLsbD k = ((s.V x).getLsbD k || (s.V y).getLsbD k)) ∧ OnlyRegs [x] s t) ∧
    (∃ t, exec (.andReg x y) s = .next t ∧
      (∀ k < 8, (t.V x).getLsbD k = ((s.V x).getLsbD k && (s.V y).getLsbD k)) ∧ OnlyRegs [x] s t) ∧
    (∃ t, exec (.xorReg x y) s = .next t ∧
      (∀ k < 8, (t.V x).getLsbD k = ((s.V x).getLsbD k ^^ (s.V y).getLsbD k)) ∧ OnlyRegs [x] s t)

/-- ADD_REG (R106): `VF` ends as the carry of the 9-bit sum of the old values, also when `x` or `y` is 15 (that the flag
is written last is D16); `V[x]`, if it is not `VF`, is the sum's low byte; nothing else changes. -/
def Obligations.AddRegistersWithCarryOut : Prop :=
  ∀ (x y : Nibble) (s : State),
    ∃ t, exec (.addReg x y) s = .next t ∧
      (t.V VF).toNat = (if (s.V x).toNat + (s.V y).toNat > 255 then 1 else 0) ∧
      (x ≠ VF → (t.V x).toNat = ((s.V x).toNat + (s.V y).toNat) % 256) ∧ OnlyRegs [x, VF] s t

/-- SUB and SUBN (R107, R109): `VF` ends as not-borrow of the old values, also when `x` or `y` is 15 (that the flag is
written last is D16); `V[x]`, if it is not `VF`, is the wrapped difference; nothing else changes. -/
def Obligations.SubtractWithNotBorrow : Prop :=
  ∀ (x y : Nibble) (s : State),
    (∃ t, exec (.sub x y) s = .next t ∧
      (t.V VF).toNat = (if (s.V x).toNat ≥ (s.V y).toNat then 1 else 0) ∧
      (x ≠ VF → ((t.V x).toNat : Int) = ((s.V x).toNat - (s.V y).toNat : Int) % 256) ∧ OnlyRegs [x, VF] s t) ∧
    (∃ t, exec (.subn x y) s = .next t ∧
      (t.V VF).toNat = (if (s.V y).toNat ≥ (s.V x).toNat then 1 else 0) ∧
      (x ≠ VF → ((t.V x).toNat : Int) = ((s.V y).toNat - (s.V x).toNat : Int) % 256) ∧ OnlyRegs [x, VF] s t)

/-- SHR and SHL (R108, R110): the value shifted is `V[y]` where QUIRK_SHIFT_VY is set and `V[x]` where not (D17); `VF`
ends as the bit shifted out, also when `x` is 15 (D16); `V[x]`, if it is not `VF`, is the shifted value; nothing else
changes. -/
def Obligations.ShiftsByOneWithTheBitShiftedOut : Prop :=
  ∀ (x y : Nibble) (v : Byte) (s : State), v = (if s.quirkShiftVy then s.V y else s.V x) →
    (∃ t, exec (.shr x y) s = .next t ∧ (t.V VF).toNat = v.toNat % 2 ∧ (x ≠ VF → (t.V x).toNat = v.toNat / 2) ∧
      OnlyRegs [x, VF] s t) ∧
    (∃ t, exec (.shl x y) s = .next t ∧ (t.V VF).toNat = v.toNat / 128 ∧
      (x ≠ VF → (t.V x).toNat = 2 * v.toNat % 256) ∧ OnlyRegs [x, VF] s t)

/-- RND (R111): `V[x]` is the tick's random byte under the mask, whatever that byte is (D29; `randByte` is the model's
own field, log 2); no flag, and nothing else changes. -/
def Obligations.RandomByteUnderTheMask : Prop :=
  ∀ (x : Nibble) (kk : Byte) (s : State),
    ∃ t, exec (.rnd x kk) s = .next t ∧
      (∀ k < 8, (t.V x).getLsbD k = (s.randByte.getLsbD k && kk.getLsbD k)) ∧ OnlyRegs [x] s t

/-! ## Index register and memory blocks (42_index_memory.md) -/

/-- LD_I, ADD_I_VX and LD_F_VX (R120 to R122) write `ir` and nothing else, `VF` included; the sum wraps at 16 bits (D7),
the glyph address takes the whole 8-bit value (D30). -/
def Obligations.IndexRegisterWrites : Prop :=
  ∀ (nnn : Addr12) (x : Nibble) (s : State),
    (∃ t, exec (.ldI nnn) s = .next t ∧ t.ir.toNat = nnn.toNat ∧ t = { s with ir := t.ir }) ∧
    (∃ t, exec (.addIVx x) s = .next t ∧ t.ir.toNat = (s.ir.toNat + (s.V x).toNat) % 65536 ∧
      t = { s with ir := t.ir }) ∧
    (∃ t, exec (.ldFVx x) s = .next t ∧ t.ir.toNat = 5 * (s.V x).toNat ∧ t = { s with ir := t.ir })

/-- LD_B_VX (R123): hundreds, tens and ones at `ir`, `ir + 1`, `ir + 2`; every other byte, and everything that is not
memory, is unchanged. The premise on memory is its canonical form. -/
def Obligations.BcdStoresThreeDigits : Prop :=
  ∀ (x : Nibble) (s : State), Memory.wf s.mem = true → s.ir.toNat + 2 < Config.memSize →
    ∃ t, exec (.ldBVx x) s = .next t ∧ t = { s with mem := t.mem } ∧
      (t.mem.read s.ir.toNat).toNat = (s.V x).toNat / 100 ∧
      (t.mem.read (s.ir.toNat + 1)).toNat = (s.V x).toNat / 10 % 10 ∧
      (t.mem.read (s.ir.toNat + 2)).toNat = (s.V x).toNat % 10 ∧
      SameBytesOutside s.ir.toNat 3 s t

/-- ST_REGS (R124): `V[0]` to `V[x]` at `ir` on; every other byte is unchanged; `ir` advances by `x + 1` modulo 2^16
(D30) exactly where QUIRK_INDEX_ADVANCE is set; nothing else changes. -/
def Obligations.RegisterDumpStoresV0ToVx : Prop :=
  ∀ (x : Nibble) (s : State), Memory.wf s.mem = true → s.ir.toNat + x.toNat < Config.memSize →
    ∃ t, exec (.stRegs x) s = .next t ∧ t = { s with mem := t.mem, ir := t.ir } ∧
      (∀ r : Nibble, r.toNat ≤ x.toNat → t.mem.read (s.ir.toNat + r.toNat) = s.V r) ∧
      SameBytesOutside s.ir.toNat (x.toNat + 1) s t ∧
      t.ir.toNat = (if s.quirkIndexAdvance then (s.ir.toNat + x.toNat + 1) % 65536 else s.ir.toNat)

/-- LD_REGS (R125): `V[0]` to `V[x]` from memory at `ir` on; the registers above `x` and memory are unchanged; `ir` as in
ST_REGS; nothing else changes. -/
def Obligations.RegisterLoadReadsV0ToVx : Prop :=
  ∀ (x : Nibble) (s : State), s.ir.toNat + x.toNat < Config.memSize →
    ∃ t, exec (.ldRegs x) s = .next t ∧ t = { s with regs := t.regs, ir := t.ir } ∧
      (∀ r : Nibble, r.toNat ≤ x.toNat → t.V r = s.mem.read (s.ir.toNat + r.toNat)) ∧
      (∀ r : Nibble, x.toNat < r.toNat → t.V r = s.V r) ∧
      t.ir.toNat = (if s.quirkIndexAdvance then (s.ir.toNat + x.toNat + 1) % 65536 else s.ir.toNat)

/-- ST_REGS, LD_REGS and LD_B_VX whose last address is not below MEM_SIZE raise `MemoryOutOfRange` with their word and
have no other effect: the sum does not wrap (R123 to R126; for LD_B_VX the check is D14). -/
def Obligations.BlockAccessPastTheEndRaises : Prop :=
  ∀ (x : Nibble) (s : State),
    (s.ir.toNat + x.toNat ≥ Config.memSize →
      exec (.stRegs x) s = .next (s.haltedBy .memoryOutOfRange (encode (.stRegs x))) ∧
      exec (.ldRegs x) s = .next (s.haltedBy .memoryOutOfRange (encode (.ldRegs x)))) ∧
    (s.ir.toNat + 2 ≥ Config.memSize →
      exec (.ldBVx x) s = .next (s.haltedBy .memoryOutOfRange (encode (.ldBVx x))))

/-- LD_B_VX followed by LD_REGS V2 gives back the decimal digits of the register, for every value (R123, R125;
95_test_vectors.md S5). -/
def Obligations.BcdThenRegisterLoadGivesTheDigits : Prop :=
  ∀ (x : Nibble) (s : State), Memory.wf s.mem = true → s.ir.toNat + 2 < Config.memSize →
    ∃ t u, exec (.ldBVx x) s = .next t ∧ exec (.ldRegs 0x2#4) t = .next u ∧
      100 * (u.V 0x0#4).toNat + 10 * (u.V 0x1#4).toNat + (u.V 0x2#4).toNat = (s.V x).toNat ∧
      (u.V 0x0#4).toNat ≤ 2 ∧ (u.V 0x1#4).toNat ≤ 9 ∧ (u.V 0x2#4).toNat ≤ 9

/-- A word stored by ST_REGS is what the next fetch from its address reads, high byte at the lower address, with no
barrier (20_memory.md R42, R50; D3). -/
def Obligations.StoredWordIsFetchedNext : Prop :=
  ∀ (x : Nibble) (s t : State), Memory.wf s.mem = true → 1 ≤ x.toNat → exec (.stRegs x) s = .next t →
    s.ir.toNat + x.toNat < Config.memSize →
    fetchWord { t with pc := s.ir } = some (s.V 0x0#4 ++ s.V 0x1#4)

/-! ## Display (43_display.md) -/

/-- CLS (R131, R134): every pixel unlit, every cell dirty, `was_cleared` set; `VF` and everything else unchanged. -/
def Obligations.ClearDisplayMarksEveryCell : Prop :=
  ∀ s : State, ∃ t, exec .cls s = .next t ∧ t = { s with display := t.display } ∧
    t.display.wasCleared = true ∧
    ∀ cx cy, Grid.cell t.display.fb cx cy = false ∧ Grid.cell t.display.dirty cx cy = true

/-- DRW (R132, R135): exactly the cells the sprite covers, each coordinate wrapped on its own, are toggled and marked
dirty; `VF` is 1 exactly when one of them was lit; every other register, `ir`, memory, `was_cleared` and everything else
are unchanged. Bit and row order are D24; that `n = 0` draws nothing and clears `VF` is D32. -/
def Obligations.DrawTogglesExactlyTheSpriteCells : Prop :=
  ∀ (x y n : Nibble) (s : State), SpriteInMemory s n →
    ∃ t, exec (.drw x y n) s = .next t ∧
      t = { s with
        regs := t.regs,
        display := { fb := t.display.fb, dirty := t.display.dirty, wasCleared := s.display.wasCleared } } ∧
      (∀ r, r ≠ VF → t.V r = s.V r) ∧
      (∀ cx cy, SpriteCovers s x y n cx cy →
        Grid.cell t.display.fb cx cy = !Grid.cell s.display.fb cx cy ∧ Grid.cell t.display.dirty cx cy = true) ∧
      (∀ cx cy, ¬ SpriteCovers s x y n cx cy →
        Grid.cell t.display.fb cx cy = Grid.cell s.display.fb cx cy ∧
          Grid.cell t.display.dirty cx cy = Grid.cell s.display.dirty cx cy) ∧
      ((∃ cx cy, SpriteCovers s x y n cx cy ∧ Grid.cell s.display.fb cx cy = true) → (t.V VF).toNat = 1) ∧
      ((∀ cx cy, SpriteCovers s x y n cx cy → Grid.cell s.display.fb cx cy = false) → (t.V VF).toNat = 0)

/-- DRW whose sprite passes the end of memory raises `MemoryOutOfRange` with its word; nothing is drawn and `VF` is not
written (R135; D14). -/
def Obligations.DrawPastTheEndRaises : Prop :=
  ∀ (x y n : Nibble) (s : State), n.toNat > 0 → s.ir.toNat + n.toNat - 1 ≥ Config.memSize →
    exec (.drw x y n) s = .next (s.haltedBy .memoryOutOfRange (encode (.drw x y n)))

/-- The round trip (R136): drawing a sprite again at the same coordinates restores the framebuffer; if the sprite has a
set bit and its area was unlit, the first draw reports 0 and the second 1. -/
def Obligations.DrawTwiceRestoresTheFramebuffer : Prop :=
  ∀ (x y n : Nibble) (s t : State), SpriteInMemory s n → exec (.drw x y n) s = .next t →
    t.V x = s.V x → t.V y = s.V y →
    ∃ u, exec (.drw x y n) t = .next u ∧ u.display.fb = s.display.fb ∧
      ((∃ cx cy, SpriteCovers s x y n cx cy) →
        (∀ cx cy, SpriteCovers s x y n cx cy → Grid.cell s.display.fb cx cy = false) →
        (t.V VF).toNat = 0 ∧ (u.V VF).toNat = 1)

/-! ## Keys and timers (44_keys_timers.md) -/

/-- SKP and SKNP (R143, R144): with a key number in `V[x]`, `pc` moves on by 2 exactly when that key's pressed bit is set
(SKNP: clear), and nothing else changes; above 15 they raise `BadKeyIndex` with their word and do nothing else
(D15). -/
def Obligations.KeySkipsTestThePressedMask : Prop :=
  ∀ (x : Nibble) (s : State),
    ((s.V x).toNat ≤ 15 →
      exec (.skp x) s = .next { s with
        pc := if s.keysPressed.getLsbD (s.V x).toNat = true then s.pc + 2#16 else s.pc } ∧
      exec (.sknp x) s = .next { s with
        pc := if s.keysPressed.getLsbD (s.V x).toNat = true then s.pc else s.pc + 2#16 }) ∧
    ((s.V x).toNat > 15 →
      exec (.skp x) s = .next (s.haltedBy .badKeyIndex (encode (.skp x))) ∧
      exec (.sknp x) s = .next (s.haltedBy .badKeyIndex (encode (.sknp x))))

/-- LD_VX_K (R145): the machine waits with `x` latched, and nothing else happens in this tick. -/
def Obligations.WaitForKeyOnlyEntersTheWait : Prop :=
  ∀ (x : Nibble) (s : State), exec (.ldVxK x) s = .next { s with runState := .waitingForKey x }

/-- LD_VX_DT, LD_DT_VX and LD_ST_VX (R146 to R148) copy between `V[x]` and a timer and change nothing else. -/
def Obligations.TimerInstructionsCopy : Prop :=
  ∀ (x : Nibble) (s : State),
    (∃ t, exec (.ldVxDt x) s = .next t ∧ t.V x = s.dt ∧ OnlyRegs [x] s t) ∧
    exec (.ldDtVx x) s = .next { s with dt := s.V x } ∧
    exec (.ldStVx x) s = .next { s with st := s.V x }

/-! ## Rules about every instruction -/

/-- "No instruction execution changes a timer except the two loads" (60_exceptions.md R162). -/
def Obligations.TimersChangeOnlyByTheTwoLoads : Prop :=
  ∀ (i : Instr) (s t : State), exec i s = .next t →
    ((∀ x, i ≠ .ldDtVx x) → t.dt = s.dt) ∧ ((∀ x, i ≠ .ldStVx x) → t.st = s.st)

/-- Only CALL pushes and only RET pops (10_state.md R14); and no instruction changes the capacity. -/
def Obligations.StackMovesOnlyByCallAndReturn : Prop :=
  ∀ (i : Instr) (s t : State), exec i s = .next t →
    t.stackCapacity = s.stackCapacity ∧
    ((∀ nnn, i ≠ .call nnn) → t.stack = s.stack ∧ t.sp ≤ s.sp) ∧ (i ≠ .ret → t.sp ≥ s.sp)

/-- Memory is written by LD_B_VX and ST_REGS only (10_state.md R19): after every other instruction every byte reads as
before. -/
def Obligations.MemoryIsWrittenOnlyByBcdAndDump : Prop :=
  ∀ (i : Instr) (s t : State), exec i s = .next t → (∀ x, i ≠ .ldBVx x) → (∀ x, i ≠ .stRegs x) →
    ∀ a, t.mem.read a = s.mem.read a

/-- Only CLS and DRW change the framebuffer, and only CLS sets `was_cleared` (10_state.md R20, R21). -/
def Obligations.DisplayChangesOnlyByClearAndDraw : Prop :=
  ∀ (i : Instr) (s t : State), exec i s = .next t →
    (i ≠ .cls → (∀ x y n, i ≠ .drw x y n) → t.display = s.display) ∧
    (i ≠ .cls → t.display.wasCleared = s.display.wasCleared)

/-- The dirty grid is never cleared by an instruction, drawing and clearing included (10_state.md R21). -/
def Obligations.NoInstructionClearsADirtyMarker : Prop :=
  ∀ (i : Instr) (s t : State) (cx : Fin Config.displayW) (cy : Fin Config.displayH), exec i s = .next t →
    Grid.cell s.display.dirty cx cy = true → Grid.cell t.display.dirty cx cy = true

/-- A general register changes in the tick that executes an instruction only as that instruction's destination, or, for
`VF`, by one of the instructions R11 lists; those leave 0 or 1 in it (10_state.md R10, R11). -/
def Obligations.RegistersChangeOnlyAsDestinationOrFlag : Prop :=
  ∀ (i : Instr) (s t : State), exec i s = .next t → s.runState = .running →
    (∀ r, isDestination r i = false → ¬ (r = VF ∧ writesFlag i = true) → t.V r = s.V r) ∧
    (writesFlag i = true → t.runState = .running → (t.V VF).toNat ≤ 1)

/-- No instruction writes the quirk flags, the key masks or the memory of what the host will do (10_state.md R17, R22,
44_keys_timers.md R143 to R145); the last four are the model's own fields (log 1, 2, 4). -/
def Obligations.InstructionsLeaveTheHostsInputs : Prop :=
  ∀ (i : Instr) (s t : State), exec i s = .next t →
    t.quirkShiftVy = s.quirkShiftVy ∧ t.quirkIndexAdvance = s.quirkIndexAdvance ∧
    t.keysPressed = s.keysPressed ∧ t.keysReleased = s.keysReleased ∧
    t.sysNoop = s.sysNoop ∧ t.schedule = s.schedule ∧ t.randByte = s.randByte ∧ t.draws = s.draws

/-- An instruction raises exactly under the condition of its row of 60_exceptions.md R152, with that cause and its own
word, and then the only effect is the halt; otherwise it completes and raises no error (R152, R153; rows D14, D15). -/
def Obligations.InstructionsRaiseExactlyTheirCause : Prop :=
  ∀ (i : Instr) (s : State), s.sp ≤ s.stackCapacity → s.runState = .running →
    (∀ c, raisesIn s i = some c → exec i s = .next (s.haltedBy c (encode i))) ∧
    (raisesIn s i = none →
      ∃ t, exec i s = .next t ∧ ∀ c info, t.runState ≠ .halted (.runtimeError c info))

/-- The only instruction that starts a wait is LD_VX_K, with its own register field, and the only one that halts without
an error is a jump to its own address (60_exceptions.md R151, R154). -/
def Obligations.OnlyWaitForKeyWaitsAndOnlySelfJumpHalts : Prop :=
  ∀ (i : Instr) (s t : State), s.runState = .running → exec i s = .next t →
    (∀ xw, t.runState = .waitingForKey xw ↔ i = .ldVxK xw) ∧
    (t.runState = .halted .explicitHalt ↔ ∃ nnn : Addr12, i = .jp nnn ∧ nnn.toNat = (s.pc - 2#16).toNat)

/-- Errors are precise (60_exceptions.md R153): a running tick that ends in a runtime error leaves everything as it was
but the run state and `pc`, which stays or has been advanced by 2 (D21); `randByte` and `draws` are the model's own
(log 2). -/
def Obligations.ErrorsArePrecise : Prop :=
  ∀ (r : Byte) (s t : State) (c : Cause) (info : Word), s.runState = .running → tick r s = .next t →
    t.runState = .halted (.runtimeError c info) →
    t = { s with
      runState := .halted (.runtimeError c info), pc := t.pc, randByte := r, draws := s.draws + 1 } ∧
    (t.pc = s.pc ∨ t.pc = s.pc + 2#16)

/-- A halted machine stays halted for the same reason whatever the host does, `reset()` alone excepted (60_exceptions.md
R151, R159). -/
def Obligations.OnlyResetLeavesAHaltedState : Prop :=
  ∀ (s t : State) (reason : HaltReason), s.runState = .halted reason → step s = .next t →
    (t.runState = .halted reason ∨ ∃ ops, s.schedule = .reset :: ops ∧ t.runState = .running)

/-! ## Invariant and totality -/

/-- Every step keeps the invariant: canonical memory within its bounds, a stack depth within the capacity (10_state.md
R14), `was_cleared` only while some cell is dirty (43_display.md R133). -/
def Obligations.EveryStepKeepsTheInvariant : Prop :=
  ∀ s t : State, s.Inv → step s = .next t → t.Inv

/-- The invariant holds right after reset (10_state.md R25; the capacity at reset is log 3). -/
def Obligations.InvariantHoldsAtReset : Prop := State.reset.Inv

/-- The step is total (93_implementation_defined.md, end of part 1): from a state with the invariant every step answers
a next state, unless the host's next operation is a `mem_write` past the end of memory, which the spec gives no step
(20_memory.md R53). -/
def Obligations.EveryStepAnswersANextState : Prop :=
  ∀ s : State, s.Inv → (∀ op ∈ s.schedule.head?, hostOpOk op = true) → ∃ t, step s = .next t

/-- The dirty grid and `was_cleared` never influence execution (43_display.md R137): a tick from two states that differ
only in them ends in two states that differ only in them. -/
def Obligations.DisplayFlagsNeverInfluenceExecution : Prop :=
  ∀ (r : Byte) (s t : State) (dirty : Grid) (wasCleared : Bool), tick r s = .next t →
    ∃ dirty' wasCleared',
      tick r (s.withDisplayFlags dirty wasCleared) = .next (t.withDisplayFlags dirty' wasCleared')

/-- No instruction reads the sound timer (10_state.md R16): a tick from two states that differ only in `ST` ends in two
states that differ only in it. -/
def Obligations.SoundTimerNeverInfluencesExecution : Prop :=
  ∀ (r : Byte) (s t : State) (b : Byte), tick r s = .next t →
    ∃ b', tick r { s with st := b } = .next { t with st := b' }

/-- The stack (10_state.md R14, 40_control.md R83, R85): as many nested calls succeed as there is room for; on a full
stack the next one overflows; and as many returns bring back depth, older entries and `pc`. `execAll` runs execute parts
one after another, without the fetch and its advance of `pc` between them (log 11). -/
def Obligations.NestedCallsFillTheStackAndReturn : Prop :=
  ∀ (targets : List Addr12) (s : State), s.sp + targets.length ≤ s.stackCapacity →
    ∃ t, execAll (targets.map Instr.call) s = .next t ∧ t.sp = s.sp + targets.length ∧
      t.runState = s.runState ∧
      (s.sp + targets.length = s.stackCapacity → ∀ nnn,
        exec (.call nnn) t = .next (t.haltedBy .stackOverflow (encode (.call nnn)))) ∧
      ∃ u, execAll (List.replicate targets.length .ret) t = .next u ∧ u.sp = s.sp ∧
        u.runState = s.runState ∧ (∀ k < s.sp, u.stack[k]? = s.stack[k]?) ∧ (targets ≠ [] → u.pc = s.pc)

/-! ## The host's operations (00_scope.md R3) -/

/-- `timer_decrement()` (60_exceptions.md R162): each timer falls by one or stays at zero, in every run state (D28);
nothing else changes. -/
def Obligations.TimerDecrementSaturatesAtZero : Prop :=
  ∀ (s : State) (ops : List HostOp), s.schedule = .timerDecrement :: ops →
    ∃ t, step s = .next t ∧ t = { s with dt := t.dt, st := t.st, schedule := ops } ∧
      t.dt.toNat = s.dt.toNat - 1 ∧ t.st.toNat = s.st.toNat - 1

/-- `set_keys` (44_keys_timers.md R142; D27) and `set_quirks` (70_reset_and_hazards.md R183; D18) replace what they name
and change nothing else, in every run state. -/
def Obligations.SetKeysAndSetQuirksReplace : Prop :=
  ∀ (s : State) (ops : List HostOp),
    (∀ p r, s.schedule = .setKeys p r :: ops →
      step s = .next { s with keysPressed := p, keysReleased := r, schedule := ops }) ∧
    (∀ v a, s.schedule = .setQuirks v a :: ops →
      step s = .next { s with quirkShiftVy := v, quirkIndexAdvance := a, schedule := ops })

/-- `reset()` (70_reset_and_hazards.md R180), in every run state: every item has its value of 10_state.md R25 (the zeros
are D10), memory and the quirk flags are unchanged (D11, D18), and so are the stack entries (log 8) and the model's own
fields. -/
def Obligations.ResetRestoresInitialValuesAndKeepsMemory : Prop :=
  ∀ (s : State) (ops : List HostOp), s.schedule = .reset :: ops →
    ∃ t, step s = .next t ∧ (∀ r, (t.V r).toNat = 0) ∧ t.ir.toNat = 0 ∧ t.pc.toNat = 0x200 ∧ t.sp = 0 ∧
      t.dt.toNat = 0 ∧ t.st.toNat = 0 ∧ t.runState = .running ∧
      (∀ cx cy, Grid.cell t.display.fb cx cy = false ∧ Grid.cell t.display.dirty cx cy = false) ∧
      t.display.wasCleared = false ∧ t.keysPressed.toNat = 0 ∧ t.keysReleased.toNat = 0 ∧
      t = { s with
        regs := t.regs, ir := t.ir, pc := t.pc, sp := t.sp, dt := t.dt, st := t.st, runState := t.runState,
        display := t.display, keysPressed := t.keysPressed, keysReleased := t.keysReleased, schedule := ops }

/-- `reset_display_flags()` (43_display.md R133), from every state with the invariant: no cell is dirty and
`was_cleared` is clear afterwards, although the operation does nothing when no cell was dirty; nothing else changes, the
framebuffer included. -/
def Obligations.ResetDisplayFlagsAlwaysClears : Prop :=
  ∀ (s : State) (ops : List HostOp), s.Inv → s.schedule = .resetDisplayFlags :: ops →
    ∃ t, step s = .next t ∧ t = { s with display := t.display, schedule := ops } ∧
      t.display.fb = s.display.fb ∧ t.display.wasCleared = false ∧
      ∀ cx cy, Grid.cell t.display.dirty cx cy = false

/-- `mem_write` (20_memory.md R53): within memory the bytes land at `addr` on, every other byte and everything else is
unchanged; past the end of memory the model has no step (D35). The premise on memory is its canonical form. -/
def Obligations.HostMemoryWriteLandsOrIsRefused : Prop :=
  ∀ (s : State) (addr : Nat) (bytes : List Byte) (ops : List HostOp), Memory.wf s.mem = true →
    s.schedule = .memWrite addr bytes :: ops →
    (addr + bytes.length ≤ Config.memSize ∨ bytes = [] →
      ∃ t, step s = .next t ∧ t = { s with mem := t.mem, schedule := ops } ∧
        (∀ k, (h : k < bytes.length) → t.mem.read (addr + k) = bytes[k]) ∧
        SameBytesOutside addr bytes.length s t) ∧
    (bytes ≠ [] → addr + bytes.length > Config.memSize → step s = .refused .hostWriteOutOfRange)

/-- Right after reset (10_state.md R25): `pc` at the program origin and the machine running, as the source says; the
registers, the stack depth, the timers, the display and the key masks at the zeros of D10; and memory holds the
reference MEM_INIT (log 6): the font of 20_memory.md R54, of which the glyphs 0, A and F are stated, and zeros from
0x050 on. -/
def Obligations.StateAfterReset : Prop :=
  State.reset.pc = 0x200#16 ∧ State.reset.runState = .running ∧ (∀ r, State.reset.V r = 0x00#8) ∧
  State.reset.ir = 0x0000#16 ∧ State.reset.sp = 0 ∧ State.reset.dt = 0x00#8 ∧ State.reset.st = 0x00#8 ∧
  State.reset.display.wasCleared = false ∧ State.reset.keysPressed = 0x0000#16 ∧
  State.reset.keysReleased = 0x0000#16 ∧
  (∀ cx cy, Grid.cell State.reset.display.fb cx cy = false ∧ Grid.cell State.reset.display.dirty cx cy = false) ∧
  (List.range 5).map (fun k => State.reset.mem.read (0x000 + k)) = [0xF0#8, 0x90#8, 0x90#8, 0x90#8, 0xF0#8] ∧
  (List.range 5).map (fun k => State.reset.mem.read (0x032 + k)) = [0xF0#8, 0x90#8, 0xF0#8, 0x90#8, 0x90#8] ∧
  (List.range 5).map (fun k => State.reset.mem.read (0x04B + k)) = [0xF0#8, 0x80#8, 0xF0#8, 0x80#8, 0x80#8] ∧
  (∀ a, 0x050 ≤ a → State.reset.mem.read a = 0x00#8)
end

