-- ==== Sys2Proof/Laws/Device.lean ====
section
/-! SUPPORT. The device's laws: reading a grid after writing it, what drawing a list of pixels does to every cell
(spec/43_display.md R132), the pixels of a sprite (R135), and the lowest key of a mask (44_keys_timers.md R141). -/

namespace Sys2Proof.Machine

/-! ## The grid -/

@[simp] theorem Grid.cell_filled (b : Bool) (cx : Fin Config.displayW) (cy : Fin Config.displayH) :
    Grid.cell (Grid.filled b) cx cy = b := by
  simp [Grid.cell, Grid.filled]

/-- Reading a cell after one is written. -/
theorem Grid.cell_setCell (g : Grid) (cx : Fin Config.displayW) (cy : Fin Config.displayH) (b : Bool)
    (x : Fin Config.displayW) (y : Fin Config.displayH) :
    Grid.cell (Grid.setCell g cx cy b) x y = if x = cx ∧ y = cy then b else Grid.cell g x y := by
  obtain ⟨cx, hcx⟩ := cx
  obtain ⟨cy, hcy⟩ := cy
  obtain ⟨x, hx⟩ := x
  obtain ⟨y, hy⟩ := y
  simp only [Grid.cell, Grid.setCell, Vector.getElem_set, Fin.mk.injEq]
  by_cases h : cy = y
  · subst h
    by_cases h' : cx = x
    · subst h'; simp
    · simp [h', Ne.symm h']
  · simp [h, Ne.symm h]

/-- Two grids with the same cells are the same. -/
theorem Grid.ext_cell {g h : Grid} (e : ∀ cx cy, Grid.cell g cx cy = Grid.cell h cx cy) : g = h := by
  apply Vector.ext
  intro y hy
  apply Vector.ext
  intro x hx
  exact e ⟨x, hx⟩ ⟨y, hy⟩

/-- `Grid.any` says that some cell is set. -/
theorem Grid.any_iff (g : Grid) : Grid.any g = true ↔ ∃ cx cy, Grid.cell g cx cy = true := by
  simp only [Grid.any, List.any_eq_true, Vector.mem_toList_iff, id]
  constructor
  · rintro ⟨row, hrow, c, hc, hct⟩
    obtain ⟨y, hy, rfl⟩ := Vector.getElem_of_mem hrow
    obtain ⟨x, hx, rfl⟩ := Vector.getElem_of_mem hc
    exact ⟨⟨x, hx⟩, ⟨y, hy⟩, hct⟩
  · rintro ⟨x, y, h⟩
    exact ⟨_, Vector.getElem_mem y.isLt, _, Vector.getElem_mem x.isLt, h⟩

/-- After `clear()` some cell is dirty. -/
@[simp] theorem Display.anyUpdate_clear (d : Display) : d.clear.anyUpdate = true :=
  (Grid.any_iff _).mpr ⟨⟨0, by decide⟩, ⟨0, by decide⟩, Grid.cell_filled _ _ _⟩

/-! ## Drawing -/

/-- The cell a pixel wraps to (R132). -/
def wrapCell (p : Nat × Nat) : Fin Config.displayW × Fin Config.displayH := (wrapX p.1, wrapY p.2)

/-- The dirty grid after `draw_pixel`: a marker is set, none is cleared. -/
theorem Display.drawPixel_dirty (d : Display) (px py : Nat) (cx : Fin Config.displayW) (cy : Fin Config.displayH) :
    Grid.cell (d.drawPixel px py).2.dirty cx cy = (decide ((cx, cy) = wrapCell (px, py)) || Grid.cell d.dirty cx cy) := by
  simp only [Display.drawPixel, Grid.cell_setCell, wrapCell, Prod.mk.injEq]
  split <;> simp [*]

/-- `was_cleared` is not changed by `draw_pixel` (R132). -/
@[simp] theorem Display.drawPixel_wasCleared (d : Display) (px py : Nat) :
    (d.drawPixel px py).2.wasCleared = d.wasCleared := rfl

@[simp] theorem Display.drawPixels_nil (d : Display) : Display.drawPixels [] d = (false, d) := rfl

theorem Display.drawPixels_cons (p : Nat × Nat) (ps : List (Nat × Nat)) (d : Display) :
    Display.drawPixels (p :: ps) d =
      ((d.drawPixel p.1 p.2).1 || (Display.drawPixels ps (d.drawPixel p.1 p.2).2).1,
        (Display.drawPixels ps (d.drawPixel p.1 p.2).2).2) := rfl

/-- `was_cleared` is not changed by drawing. -/
@[simp] theorem Display.drawPixels_wasCleared (ps : List (Nat × Nat)) (d : Display) :
    (Display.drawPixels ps d).2.wasCleared = d.wasCleared := by
  induction ps generalizing d with
  | nil => rfl
  | cons p ps ih => rw [Display.drawPixels_cons, ih, Display.drawPixel_wasCleared]

/-- Exactly the cells drawn on become dirty; no marker is cleared. -/
theorem Display.drawPixels_dirty (ps : List (Nat × Nat)) (d : Display) (cx : Fin Config.displayW)
    (cy : Fin Config.displayH) :
    Grid.cell (Display.drawPixels ps d).2.dirty cx cy =
      (decide ((cx, cy) ∈ ps.map wrapCell) || Grid.cell d.dirty cx cy) := by
  induction ps generalizing d with
  | nil => simp
  | cons p ps ih =>
    rw [Display.drawPixels_cons, ih, Display.drawPixel_dirty]
    simp only [List.map_cons, List.mem_cons, Bool.decide_or]
    cases decide ((cx, cy) = wrapCell p) <;> cases decide ((cx, cy) ∈ ps.map wrapCell) <;> rfl

/-- What drawing does to the framebuffer when no two pixels fall on one cell: exactly the cells drawn on are toggled. -/
theorem Display.drawPixels_fb {ps : List (Nat × Nat)} (hn : (ps.map wrapCell).Nodup) (d : Display)
    (cx : Fin Config.displayW) (cy : Fin Config.displayH) :
    Grid.cell (Display.drawPixels ps d).2.fb cx cy =
      if (cx, cy) ∈ ps.map wrapCell then !Grid.cell d.fb cx cy else Grid.cell d.fb cx cy := by
  induction ps generalizing d with
  | nil => simp
  | cons p ps ih =>
    rw [List.map_cons, List.nodup_cons] at hn
    rw [Display.drawPixels_cons, ih hn.2]
    have hp : Grid.cell (d.drawPixel p.1 p.2).2.fb cx cy =
        if (cx, cy) = wrapCell p then !Grid.cell d.fb cx cy else Grid.cell d.fb cx cy := by
      simp only [Display.drawPixel, Grid.cell_setCell, wrapCell, Prod.mk.injEq]
      split
      · next h => rw [h.1, h.2]
      · rfl
    rw [hp, List.map_cons]
    by_cases h : (cx, cy) = wrapCell p
    · have hnot : (cx, cy) ∉ ps.map wrapCell := h ▸ hn.1
      rw [if_neg hnot, if_pos h, if_pos (List.mem_cons.mpr (.inl h))]
    · simp only [List.mem_cons, h, false_or, if_false]

/-- The collision bit, when no two pixels fall on one cell: some cell drawn on was lit. -/
theorem Display.drawPixels_collision {ps : List (Nat × Nat)} (hn : (ps.map wrapCell).Nodup) (d : Display) :
    (Display.drawPixels ps d).1 = true ↔ ∃ c ∈ ps.map wrapCell, Grid.cell d.fb c.1 c.2 = true := by
  induction ps generalizing d with
  | nil => simp
  | cons p ps ih =>
    rw [List.map_cons, List.nodup_cons] at hn
    rw [Display.drawPixels_cons, Bool.or_eq_true, ih hn.2, List.map_cons]
    have hne : ∀ c ∈ ps.map wrapCell,
        Grid.cell (d.drawPixel p.1 p.2).2.fb c.1 c.2 = Grid.cell d.fb c.1 c.2 := by
      intro c hc
      have hcp : ¬ (c.1 = wrapX p.1 ∧ c.2 = wrapY p.2) := fun e => hn.1 (by
        rw [show wrapCell p = c from (Prod.ext e.1 e.2).symm]; exact hc)
      simp only [Display.drawPixel, Grid.cell_setCell, if_neg hcp]
    constructor
    · rintro (h | ⟨c, hc, h⟩)
      · exact ⟨wrapCell p, by simp, h⟩
      · exact ⟨c, by simp [hc], by rwa [hne c hc] at h⟩
    · rintro ⟨c, hc, h⟩
      rcases List.mem_cons.mp hc with rfl | hc
      · exact .inl h
      · exact .inr ⟨c, hc, by rwa [hne c hc]⟩

/-! ## Sprites (R135) -/

/-- The pixels of one row. -/
theorem mem_spriteRowPixels {b : Byte} {x0 py : Nat} {p : Nat × Nat} :
    p ∈ spriteRowPixels b x0 py ↔ ∃ k, k < 8 ∧ b.getLsbD (7 - k) = true ∧ p = (x0 + k, py) := by
  simp only [spriteRowPixels, List.mem_map, List.mem_filter, List.mem_range]
  constructor
  · rintro ⟨k, ⟨hk, hb⟩, rfl⟩; exact ⟨k, hk, hb, rfl⟩
  · rintro ⟨k, hk, hb, rfl⟩; exact ⟨k, ⟨hk, hb⟩, rfl⟩

/-- The pixels of a sprite: bit `7 - k` of byte `r` stands for `(x0 + k, py + r)`. -/
theorem mem_spritePixels {bs : List Byte} {x0 py : Nat} {p : Nat × Nat} :
    p ∈ spritePixels bs x0 py ↔
      ∃ r k, r < bs.length ∧ k < 8 ∧ (bs.getD r 0).getLsbD (7 - k) = true ∧ p = (x0 + k, py + r) := by
  induction bs generalizing py with
  | nil => simp [spritePixels]
  | cons b bs ih =>
    simp only [spritePixels, List.mem_append, mem_spriteRowPixels, ih]
    constructor
    · rintro (⟨k, hk, hb, rfl⟩ | ⟨r, k, hr, hk, hb, rfl⟩)
      · exact ⟨0, k, by simp, hk, by simpa using hb, by simp⟩
      · exact ⟨r + 1, k, by simpa using hr, hk, by simpa using hb, by simp; omega⟩
    · rintro ⟨r, k, hr, hk, hb, rfl⟩
      cases r with
      | zero => exact .inl ⟨k, hk, by simpa using hb, by simp⟩
      | succ r => exact .inr ⟨r, k, by simpa using hr, hk, by simpa using hb, by simp; omega⟩

/-- No two bits of a sprite of at most 32 rows fall on one cell (R135 (d)). -/
theorem spritePixels_nodup {bs : List Byte} {x0 py : Nat} (h : bs.length ≤ Config.displayH) :
    ((spritePixels bs x0 py).map wrapCell).Nodup := by
  induction bs generalizing py with
  | nil => simp [spritePixels]
  | cons b bs ih =>
    simp only [List.length_cons] at h
    rw [spritePixels, List.map_append, List.nodup_append]
    refine ⟨?_, ih (by omega), ?_⟩
    · unfold spriteRowPixels
      rw [List.map_map]
      refine List.Nodup.map_on ?_ (List.nodup_range.filter _)
      intro k hk l hl e
      have hk' := List.mem_range.mp (List.mem_filter.mp hk).1
      have hl' := List.mem_range.mp (List.mem_filter.mp hl).1
      have := congrArg (fun c => c.1.val) e
      simp only [Function.comp, wrapCell, wrapX, Config.displayW] at this
      omega
    · intro c hc c' hc' e
      obtain ⟨p, hp, rfl⟩ := List.mem_map.mp hc
      obtain ⟨q, hq, rfl⟩ := List.mem_map.mp hc'
      obtain ⟨k, hk, -, rfl⟩ := mem_spriteRowPixels.mp hp
      obtain ⟨r, l, hr, hl, -, rfl⟩ := mem_spritePixels.mp hq
      have := congrArg (fun c => c.2.val) e
      simp only [wrapCell, wrapY, Config.displayH] at this
      simp only [Config.displayH] at h
      omega

/-! ## The keys -/

/-- No key is found in an empty mask. -/
theorem lowestKey_zero : lowestKey 0x0000#16 = none := by decide

/-- The lowest key of a mask: its bit is set and no lower one is. -/
theorem lowestKey_some {mask : Word} {k : Nat} (h : lowestKey mask = some k) :
    k < 16 ∧ mask.getLsbD k = true ∧ ∀ j < k, mask.getLsbD j = false := by
  have hp := List.find?_some h
  have hk : k < 16 := List.mem_range.mp (List.mem_of_find?_eq_some h)
  refine ⟨hk, by simpa using hp, fun j hj => ?_⟩
  obtain ⟨-, as, bs, hs, hall⟩ := List.find?_eq_some_iff_append.mp h
  by_contra hc
  have hj' : j ∈ as := by
    have hlen : as.length = k := by
      have h1 := congrArg (fun l => l[as.length]?) hs
      simp only [List.getElem?_append_right (Nat.le_refl _), Nat.sub_self, List.getElem?_cons_zero] at h1
      rw [List.getElem?_eq_some_iff] at h1
      obtain ⟨hlt, h2⟩ := h1
      simpa using h2
    have h1 := congrArg (fun l => l[j]?) hs
    simp only [List.getElem?_append_left (by omega : j < as.length)] at h1
    rw [List.getElem?_range (by omega)] at h1
    exact List.mem_of_getElem? h1.symm
  have := hall j hj'
  simp_all

/-- A mask that is not empty has a lowest key. -/
theorem lowestKey_none {mask : Word} (h : lowestKey mask = none) : mask = 0x0000#16 := by
  apply BitVec.eq_of_getLsbD_eq
  intro i hi
  have := List.find?_eq_none.mp h i (List.mem_range.mpr hi)
  simpa using this

end Sys2Proof.Machine
end

