-- ==== Sys2Proof/Laws/Encoding.lean ====
section
/-! SUPPORT. The fields of the words the encoder builds (spec/30_encoding.md R61, R62), and a word as the sum of its
fields. -/

namespace Sys2Proof

section nnn
variable (op : Nibble) (nnn : Addr12)

theorem opField_wordNNN : opField (wordNNN op nnn) = op := by
  simp only [opField, wordNNN]; exact BitVec.extractLsb'_append_eq_left

theorem nnnField_wordNNN : nnnField (wordNNN op nnn) = nnn := by
  simp only [nnnField, wordNNN]; exact BitVec.extractLsb'_append_eq_right

end nnn

section xkk
variable (op x : Nibble) (kk : Byte)

theorem opField_wordXKK : opField (wordXKK op x kk) = op := by
  ext i hi
  simp only [opField, wordXKK, BitVec.getElem_extractLsb', BitVec.getLsbD_append]
  have h1 : ¬ 12 + i < 8 := by omega
  have h2 : ¬ 12 + i - 8 < 4 := by omega
  have h3 : 12 + i - 8 - 4 = i := by omega
  simp [h1, h2, h3, BitVec.getLsbD_eq_getElem hi]

theorem xField_wordXKK : xField (wordXKK op x kk) = x := by
  ext i hi
  simp only [xField, wordXKK, BitVec.getElem_extractLsb', BitVec.getLsbD_append]
  have h1 : ¬ 8 + i < 8 := by omega
  have h3 : 8 + i - 8 = i := by omega
  simp [h1, h3, hi]

theorem kkField_wordXKK : kkField (wordXKK op x kk) = kk := by
  ext i hi
  simp only [kkField, wordXKK, BitVec.getElem_extractLsb', BitVec.getLsbD_append]
  simp [hi]

end xkk

section xyn
variable (op x y n : Nibble)

theorem opField_wordXYN : opField (wordXYN op x y n) = op := by
  ext i hi
  simp only [opField, wordXYN, BitVec.getElem_extractLsb', BitVec.getLsbD_append]
  have h1 : ¬ 12 + i < 4 := by omega
  have h2 : ¬ 12 + i - 4 < 4 := by omega
  have h3 : ¬ 12 + i - 4 - 4 < 4 := by omega
  have h4 : 12 + i - 4 - 4 - 4 = i := by omega
  simp [h1, h2, h3, h4, BitVec.getLsbD_eq_getElem hi]

theorem xField_wordXYN : xField (wordXYN op x y n) = x := by
  ext i hi
  simp only [xField, wordXYN, BitVec.getElem_extractLsb', BitVec.getLsbD_append]
  have h1 : ¬ 8 + i < 4 := by omega
  have h2 : ¬ 8 + i - 4 < 4 := by omega
  have h4 : 8 + i - 4 - 4 = i := by omega
  simp [h1, h2, h4, hi]

theorem yField_wordXYN : yField (wordXYN op x y n) = y := by
  ext i hi
  simp only [yField, wordXYN, BitVec.getElem_extractLsb', BitVec.getLsbD_append]
  have h1 : ¬ 4 + i < 4 := by omega
  have h4 : 4 + i - 4 = i := by omega
  simp [h1, h4, hi]

theorem nField_wordXYN : nField (wordXYN op x y n) = n := by
  ext i hi
  simp only [nField, wordXYN, BitVec.getElem_extractLsb', BitVec.getLsbD_append]
  simp [hi]

end xyn

/-- A word is its top nibble and `nnn`. -/
theorem word_eq_NNN (w : Word) : w = wordNNN (opField w) (nnnField w) := by
  apply BitVec.eq_of_getLsbD_eq
  intro i hi
  simp only [wordNNN, opField, nnnField, BitVec.getLsbD_append, BitVec.getLsbD_extractLsb']
  by_cases h : i < 12
  · simp [h]
  · simp [h, show i - 12 < 4 by omega, show 12 + (i - 12) = i by omega]

/-- A word is its top nibble, `x` and `kk`. -/
theorem word_eq_XKK (w : Word) : w = wordXKK (opField w) (xField w) (kkField w) := by
  apply BitVec.eq_of_getLsbD_eq
  intro i hi
  simp only [wordXKK, opField, xField, kkField, BitVec.getLsbD_append, BitVec.getLsbD_extractLsb']
  by_cases h : i < 8
  · simp [h]
  · by_cases h' : i - 8 < 4
    · simp [h, h', show 8 + (i - 8) = i by omega]
    · simp [h, h', show i - 8 - 4 < 4 by omega, show 12 + (i - 8 - 4) = i by omega]

/-- A word is its four nibbles. -/
theorem word_eq_XYN (w : Word) : w = wordXYN (opField w) (xField w) (yField w) (nField w) := by
  apply BitVec.eq_of_getLsbD_eq
  intro i hi
  simp only [wordXYN, opField, xField, yField, nField, BitVec.getLsbD_append, BitVec.getLsbD_extractLsb']
  by_cases h : i < 4
  · simp [h]
  · by_cases h' : i - 4 < 4
    · simp [h, h', show 4 + (i - 4) = i by omega]
    · by_cases h'' : i - 4 - 4 < 4
      · simp [h, h', h'', show 8 + (i - 4 - 4) = i by omega]
      · simp [h, h', h'', show i - 4 - 4 - 4 < 4 by omega, show 12 + (i - 4 - 4 - 4) = i by omega]

/-- The bytes of a word, laid out and read back, are the word. -/
theorem wordOfBytes_high_low (w : Word) : wordOfBytes (highByte w) (lowByte w) = w := by
  apply BitVec.eq_of_getLsbD_eq
  intro i hi
  simp only [wordOfBytes, highByte, lowByte, BitVec.getLsbD_append, BitVec.getLsbD_extractLsb']
  by_cases h : i < 8
  · simp [h]
  · simp [h, show i - 8 < 8 by omega, show 8 + (i - 8) = i by omega]

/-! ## Masking (R64) -/

theorem nibble_and_ones (v : Nibble) : v &&& 15#4 = v := BitVec.and_allOnes
theorem byte_and_ones (v : Byte) : v &&& 255#8 = v := BitVec.and_allOnes

theorem wordNNN_top (op : Nibble) (nnn : Addr12) : wordNNN op nnn &&& 0xF000#16 = wordNNN op 0x000#12 := by
  rw [show (0xF000#16 : Word) = wordNNN 0xF#4 0x000#12 by decide]
  simp only [wordNNN]
  rw [BitVec.and_append]
  simp [nibble_and_ones]

theorem wordXKK_top (op x : Nibble) (kk : Byte) : wordXKK op x kk &&& 0xF000#16 = wordXKK op 0x0#4 0x00#8 := by
  rw [show (0xF000#16 : Word) = wordXKK 0xF#4 0x0#4 0x00#8 by decide]
  simp only [wordXKK]
  rw [BitVec.and_append, BitVec.and_append]
  simp [nibble_and_ones]

theorem wordXKK_topLow (op x : Nibble) (kk : Byte) : wordXKK op x kk &&& 0xF0FF#16 = wordXKK op 0x0#4 kk := by
  rw [show (0xF0FF#16 : Word) = wordXKK 0xF#4 0x0#4 0xFF#8 by decide]
  simp only [wordXKK]
  rw [BitVec.and_append, BitVec.and_append]
  simp [nibble_and_ones, byte_and_ones]

theorem wordXYN_top (op x y n : Nibble) : wordXYN op x y n &&& 0xF000#16 = wordXYN op 0x0#4 0x0#4 0x0#4 := by
  rw [show (0xF000#16 : Word) = wordXYN 0xF#4 0x0#4 0x0#4 0x0#4 by decide]
  simp only [wordXYN]
  rw [BitVec.and_append, BitVec.and_append, BitVec.and_append]
  simp [nibble_and_ones]

theorem wordXYN_topLow (op x y n : Nibble) : wordXYN op x y n &&& 0xF00F#16 = wordXYN op 0x0#4 0x0#4 n := by
  rw [show (0xF00F#16 : Word) = wordXYN 0xF#4 0x0#4 0x0#4 0xF#4 by decide]
  simp only [wordXYN]
  rw [BitVec.and_append, BitVec.and_append, BitVec.and_append]
  simp [nibble_and_ones]

end Sys2Proof
end

