-- ==== Sys2Proof/Laws/Memory.lean ====
section
/-! SUPPORT. Memory's laws: reading after writing, one byte and many; every memory operation keeps the canonical form;
what the checked accesses of spec/20_memory.md R41 answer. -/

namespace Sys2Proof.Machine

/-- Every listed address lies above `a`. -/
def Memory.above (a : Nat) (m : Memory) : Prop := ∀ c ∈ m, a < c.1

theorem Memory.wf_nil : Memory.wf [] = true := rfl

/-- The canonical form, entry by entry. -/
theorem Memory.wf_cons {k : Nat} {v : Byte} {m : Memory} :
    Memory.wf ((k, v) :: m) = true ↔
      k < Config.memSize ∧ v ≠ Memory.unlisted k ∧ Memory.above k m ∧ Memory.wf m = true := by
  simp [Memory.wf, Memory.above, and_assoc]

theorem Memory.above_mono {a b : Nat} {m : Memory} (h : Memory.above b m) (hab : a ≤ b) : Memory.above a m :=
  fun c hc => lt_of_le_of_lt hab (h c hc)

/-- An address below every listed one is unlisted. -/
theorem Memory.read_of_above {m : Memory} {a : Nat} (h : Memory.above a m) : m.read a = Memory.unlisted a := by
  induction m with
  | nil => rfl
  | cons c m ih =>
    have hc : a < c.1 := h c (by simp)
    rw [Memory.read, if_neg (by omega), ih fun d hd => h d (by simp [hd])]

theorem Memory.read_put {a : Nat} {b : Byte} {m : Memory} (h : Memory.above a m) (c : Nat) :
    (Memory.put a b m).read c = if c = a then b else m.read c := by
  unfold Memory.put
  split
  · next hb =>
    split
    · next hc => rw [hc, Memory.read_of_above h, hb]
    · rfl
  · rfl

/-- Reading after a write: the byte written at its address, the old byte everywhere else. -/
theorem Memory.read_write {m : Memory} (h : Memory.wf m = true) (a : Nat) (b : Byte) (c : Nat) :
    (m.write a b).read c = if c = a then b else m.read c := by
  induction m with
  | nil => exact Memory.read_put (by simp [Memory.above]) c
  | cons e m ih =>
    obtain ⟨k, v⟩ := e
    obtain ⟨-, -, hk, hm⟩ := Memory.wf_cons.mp h
    unfold Memory.write
    split
    · next hak =>
      refine Memory.read_put (fun d hd => ?_) c
      rcases List.mem_cons.mp hd with rfl | hd
      · exact hak
      · exact lt_trans hak (hk d hd)
    · split
      · next hak =>
        subst hak
        rw [Memory.read_put hk]
        by_cases hc : c = a <;> simp [Memory.read, hc]
      · next hne =>
        simp only [Memory.read, ih hm]
        by_cases hc : c = k
        · simp [hc, Ne.symm hne]
        · simp [hc]

theorem Memory.put_wf {a : Nat} {b : Byte} {m : Memory} (ha : a < Config.memSize) (hm : Memory.wf m = true)
    (h : Memory.above a m) : Memory.wf (Memory.put a b m) = true := by
  unfold Memory.put
  split
  · exact hm
  · next hb => exact Memory.wf_cons.mpr ⟨ha, hb, h, hm⟩

theorem Memory.above_put {a k : Nat} {b : Byte} {m : Memory} (hka : k < a) (h : Memory.above k m) :
    Memory.above k (Memory.put a b m) := by
  unfold Memory.put
  split
  · exact h
  · intro c hc
    rcases List.mem_cons.mp hc with rfl | hc
    · exact hka
    · exact h c hc

theorem Memory.above_write {a k : Nat} {b : Byte} {m : Memory} (hka : k < a) (h : Memory.above k m) :
    Memory.above k (m.write a b) := by
  induction m with
  | nil => exact Memory.above_put hka h
  | cons e m ih =>
    obtain ⟨k', v⟩ := e
    have hm : Memory.above k m := fun c hc => h c (by simp [hc])
    unfold Memory.write
    split
    · exact Memory.above_put hka h
    · split
      · exact Memory.above_put hka hm
      · intro c hc
        rcases List.mem_cons.mp hc with rfl | hc
        · exact h _ (by simp)
        · exact ih hm c hc

/-- A write within memory keeps the canonical form. -/
theorem Memory.write_wf {m : Memory} (h : Memory.wf m = true) {a : Nat} (ha : a < Config.memSize) (b : Byte) :
    Memory.wf (m.write a b) = true := by
  induction m with
  | nil => exact Memory.put_wf ha h (by simp [Memory.above])
  | cons e m ih =>
    obtain ⟨k, v⟩ := e
    obtain ⟨hk, hv, hab, hm⟩ := Memory.wf_cons.mp h
    unfold Memory.write
    split
    · next hak =>
      refine Memory.put_wf ha h fun c hc => ?_
      rcases List.mem_cons.mp hc with rfl | hc
      · exact hak
      · exact lt_trans hak (hab c hc)
    · split
      · next hak => exact Memory.put_wf ha hm (hak ▸ hab)
      · next h1 h2 =>
        exact Memory.wf_cons.mpr ⟨hk, hv, Memory.above_write (by omega) hab, ih hm⟩

/-- Writing several bytes within memory keeps the canonical form. -/
theorem Memory.writeAll_wf {m : Memory} (h : Memory.wf m = true) {a : Nat} {bs : List Byte}
    (ha : a + bs.length ≤ Config.memSize) : Memory.wf (m.writeAll a bs) = true := by
  induction bs generalizing m a with
  | nil => exact h
  | cons b bs ih =>
    simp only [List.length_cons] at ha
    exact ih (Memory.write_wf h (by omega) b) (by omega)

/-- Reading after writing several bytes within memory: the byte of the list at its offset, the old byte elsewhere. -/
theorem Memory.read_writeAll {m : Memory} (h : Memory.wf m = true) {a : Nat} {bs : List Byte}
    (ha : a + bs.length ≤ Config.memSize) (c : Nat) :
    (m.writeAll a bs).read c = if a ≤ c ∧ c < a + bs.length then bs.getD (c - a) 0 else m.read c := by
  induction bs generalizing m a with
  | nil => simp [Memory.writeAll]
  | cons b bs ih =>
    simp only [List.length_cons] at ha ⊢
    rw [Memory.writeAll, ih (Memory.write_wf h (by omega) b) (by omega), Memory.read_write h]
    by_cases hc : c = a
    · subst hc; simp
    · by_cases hr : a + 1 ≤ c ∧ c < a + 1 + bs.length
      · rw [if_pos hr, if_pos (by omega), show c - a = (c - (a + 1)) + 1 by omega, List.getD_cons_succ]
      · rw [if_neg hr, if_neg hc, if_neg (by omega)]

/-- The bounds check of R41. -/
theorem Memory.inRange_iff {a n : Nat} : Memory.inRange a n = true ↔ n = 0 ∨ a + n - 1 < Config.memSize := by
  simp [Memory.inRange]

/-- A range of at least one byte that passes the check lies within memory. -/
theorem Memory.inRange_bound {a n : Nat} (hn : n ≠ 0) : Memory.inRange a n = true ↔ a + n ≤ Config.memSize := by
  rw [Memory.inRange_iff]; omega

/-- `MemRead` answers the bytes of its range. -/
theorem Memory.readBytes?_of_inRange {m : Memory} {a n : Nat} (h : Memory.inRange a n = true) :
    m.readBytes? a n = some ((List.range n).map fun i => m.read (a + i)) := by
  simp [Memory.readBytes?, h]

/-- `MemRead` past the end of memory answers nothing. -/
theorem Memory.readBytes?_of_not_inRange {m : Memory} {a n : Nat} (h : Memory.inRange a n = false) :
    m.readBytes? a n = none := by
  simp [Memory.readBytes?, h]

/-- `MemWrite` within memory writes its bytes. -/
theorem Memory.writeBytes?_of_inRange {m : Memory} {a : Nat} {bs : List Byte}
    (h : Memory.inRange a bs.length = true) : m.writeBytes? a bs = some (m.writeAll a bs) := by
  simp [Memory.writeBytes?, h]

/-- `MemWrite` past the end of memory writes nothing. -/
theorem Memory.writeBytes?_of_not_inRange {m : Memory} {a : Nat} {bs : List Byte}
    (h : Memory.inRange a bs.length = false) : m.writeBytes? a bs = none := by
  simp [Memory.writeBytes?, h]

/-- `MemWrite` keeps the canonical form. -/
theorem Memory.writeBytes?_wf {m m' : Memory} (h : Memory.wf m = true) {a : Nat} {bs : List Byte}
    (hw : m.writeBytes? a bs = some m') : Memory.wf m' = true := by
  unfold Memory.writeBytes? at hw
  split at hw
  · next hr =>
    cases hw
    cases bs with
    | nil => exact h
    | cons b bs => exact Memory.writeAll_wf h ((Memory.inRange_bound (by simp)).mp hr)
  · cases hw

end Sys2Proof.Machine
end

