-- ==== Sys2Proof/Laws/State.lean ====
section
/-! SUPPORT. The state's small lemmas: every field after every named update, so that no later proof unfolds a record
update, and the general registers as read by `State.V`. -/

namespace Sys2Proof.Machine

section setV
variable (s : State) (r : Nibble) (b : Byte)
@[simp] theorem State.setV_regs : (s.setV r b).regs = s.regs.set r.toNat b r.isLt := rfl
@[simp] theorem State.setV_ir : (s.setV r b).ir = s.ir := rfl
@[simp] theorem State.setV_pc : (s.setV r b).pc = s.pc := rfl
@[simp] theorem State.setV_stack : (s.setV r b).stack = s.stack := rfl
@[simp] theorem State.setV_sp : (s.setV r b).sp = s.sp := rfl
@[simp] theorem State.setV_dt : (s.setV r b).dt = s.dt := rfl
@[simp] theorem State.setV_st : (s.setV r b).st = s.st := rfl
@[simp] theorem State.setV_quirkShiftVy : (s.setV r b).quirkShiftVy = s.quirkShiftVy := rfl
@[simp] theorem State.setV_quirkIndexAdvance : (s.setV r b).quirkIndexAdvance = s.quirkIndexAdvance := rfl
@[simp] theorem State.setV_runState : (s.setV r b).runState = s.runState := rfl
@[simp] theorem State.setV_mem : (s.setV r b).mem = s.mem := rfl
@[simp] theorem State.setV_display : (s.setV r b).display = s.display := rfl
@[simp] theorem State.setV_keysPressed : (s.setV r b).keysPressed = s.keysPressed := rfl
@[simp] theorem State.setV_keysReleased : (s.setV r b).keysReleased = s.keysReleased := rfl
@[simp] theorem State.setV_sysNoop : (s.setV r b).sysNoop = s.sysNoop := rfl
@[simp] theorem State.setV_schedule : (s.setV r b).schedule = s.schedule := rfl
@[simp] theorem State.setV_randByte : (s.setV r b).randByte = s.randByte := rfl
@[simp] theorem State.setV_draws : (s.setV r b).draws = s.draws := rfl
@[simp] theorem State.setV_stackCapacity : (s.setV r b).stackCapacity = s.stackCapacity := rfl
end setV

section setPc
variable (s : State) (a : Word)
@[simp] theorem State.setPc_regs : (s.setPc a).regs = s.regs := rfl
@[simp] theorem State.setPc_ir : (s.setPc a).ir = s.ir := rfl
@[simp] theorem State.setPc_pc : (s.setPc a).pc = a := rfl
@[simp] theorem State.setPc_stack : (s.setPc a).stack = s.stack := rfl
@[simp] theorem State.setPc_sp : (s.setPc a).sp = s.sp := rfl
@[simp] theorem State.setPc_dt : (s.setPc a).dt = s.dt := rfl
@[simp] theorem State.setPc_st : (s.setPc a).st = s.st := rfl
@[simp] theorem State.setPc_quirkShiftVy : (s.setPc a).quirkShiftVy = s.quirkShiftVy := rfl
@[simp] theorem State.setPc_quirkIndexAdvance : (s.setPc a).quirkIndexAdvance = s.quirkIndexAdvance := rfl
@[simp] theorem State.setPc_runState : (s.setPc a).runState = s.runState := rfl
@[simp] theorem State.setPc_mem : (s.setPc a).mem = s.mem := rfl
@[simp] theorem State.setPc_display : (s.setPc a).display = s.display := rfl
@[simp] theorem State.setPc_keysPressed : (s.setPc a).keysPressed = s.keysPressed := rfl
@[simp] theorem State.setPc_keysReleased : (s.setPc a).keysReleased = s.keysReleased := rfl
@[simp] theorem State.setPc_sysNoop : (s.setPc a).sysNoop = s.sysNoop := rfl
@[simp] theorem State.setPc_schedule : (s.setPc a).schedule = s.schedule := rfl
@[simp] theorem State.setPc_randByte : (s.setPc a).randByte = s.randByte := rfl
@[simp] theorem State.setPc_draws : (s.setPc a).draws = s.draws := rfl
@[simp] theorem State.setPc_V (q : Nibble) : (s.setPc a).V q = s.V q := rfl
@[simp] theorem State.setPc_stackCapacity : (s.setPc a).stackCapacity = s.stackCapacity := rfl
end setPc

section setIr
variable (s : State) (a : Word)
@[simp] theorem State.setIr_regs : (s.setIr a).regs = s.regs := rfl
@[simp] theorem State.setIr_ir : (s.setIr a).ir = a := rfl
@[simp] theorem State.setIr_pc : (s.setIr a).pc = s.pc := rfl
@[simp] theorem State.setIr_stack : (s.setIr a).stack = s.stack := rfl
@[simp] theorem State.setIr_sp : (s.setIr a).sp = s.sp := rfl
@[simp] theorem State.setIr_dt : (s.setIr a).dt = s.dt := rfl
@[simp] theorem State.setIr_st : (s.setIr a).st = s.st := rfl
@[simp] theorem State.setIr_quirkShiftVy : (s.setIr a).quirkShiftVy = s.quirkShiftVy := rfl
@[simp] theorem State.setIr_quirkIndexAdvance : (s.setIr a).quirkIndexAdvance = s.quirkIndexAdvance := rfl
@[simp] theorem State.setIr_runState : (s.setIr a).runState = s.runState := rfl
@[simp] theorem State.setIr_mem : (s.setIr a).mem = s.mem := rfl
@[simp] theorem State.setIr_display : (s.setIr a).display = s.display := rfl
@[simp] theorem State.setIr_keysPressed : (s.setIr a).keysPressed = s.keysPressed := rfl
@[simp] theorem State.setIr_keysReleased : (s.setIr a).keysReleased = s.keysReleased := rfl
@[simp] theorem State.setIr_sysNoop : (s.setIr a).sysNoop = s.sysNoop := rfl
@[simp] theorem State.setIr_schedule : (s.setIr a).schedule = s.schedule := rfl
@[simp] theorem State.setIr_randByte : (s.setIr a).randByte = s.randByte := rfl
@[simp] theorem State.setIr_draws : (s.setIr a).draws = s.draws := rfl
@[simp] theorem State.setIr_V (q : Nibble) : (s.setIr a).V q = s.V q := rfl
@[simp] theorem State.setIr_stackCapacity : (s.setIr a).stackCapacity = s.stackCapacity := rfl
end setIr

section setDt
variable (s : State) (b : Byte)
@[simp] theorem State.setDt_regs : (s.setDt b).regs = s.regs := rfl
@[simp] theorem State.setDt_ir : (s.setDt b).ir = s.ir := rfl
@[simp] theorem State.setDt_pc : (s.setDt b).pc = s.pc := rfl
@[simp] theorem State.setDt_stack : (s.setDt b).stack = s.stack := rfl
@[simp] theorem State.setDt_sp : (s.setDt b).sp = s.sp := rfl
@[simp] theorem State.setDt_dt : (s.setDt b).dt = b := rfl
@[simp] theorem State.setDt_st : (s.setDt b).st = s.st := rfl
@[simp] theorem State.setDt_quirkShiftVy : (s.setDt b).quirkShiftVy = s.quirkShiftVy := rfl
@[simp] theorem State.setDt_quirkIndexAdvance : (s.setDt b).quirkIndexAdvance = s.quirkIndexAdvance := rfl
@[simp] theorem State.setDt_runState : (s.setDt b).runState = s.runState := rfl
@[simp] theorem State.setDt_mem : (s.setDt b).mem = s.mem := rfl
@[simp] theorem State.setDt_display : (s.setDt b).display = s.display := rfl
@[simp] theorem State.setDt_keysPressed : (s.setDt b).keysPressed = s.keysPressed := rfl
@[simp] theorem State.setDt_keysReleased : (s.setDt b).keysReleased = s.keysReleased := rfl
@[simp] theorem State.setDt_sysNoop : (s.setDt b).sysNoop = s.sysNoop := rfl
@[simp] theorem State.setDt_schedule : (s.setDt b).schedule = s.schedule := rfl
@[simp] theorem State.setDt_randByte : (s.setDt b).randByte = s.randByte := rfl
@[simp] theorem State.setDt_draws : (s.setDt b).draws = s.draws := rfl
@[simp] theorem State.setDt_V (q : Nibble) : (s.setDt b).V q = s.V q := rfl
@[simp] theorem State.setDt_stackCapacity : (s.setDt b).stackCapacity = s.stackCapacity := rfl
end setDt

section setSt
variable (s : State) (b : Byte)
@[simp] theorem State.setSt_regs : (s.setSt b).regs = s.regs := rfl
@[simp] theorem State.setSt_ir : (s.setSt b).ir = s.ir := rfl
@[simp] theorem State.setSt_pc : (s.setSt b).pc = s.pc := rfl
@[simp] theorem State.setSt_stack : (s.setSt b).stack = s.stack := rfl
@[simp] theorem State.setSt_sp : (s.setSt b).sp = s.sp := rfl
@[simp] theorem State.setSt_dt : (s.setSt b).dt = s.dt := rfl
@[simp] theorem State.setSt_st : (s.setSt b).st = b := rfl
@[simp] theorem State.setSt_quirkShiftVy : (s.setSt b).quirkShiftVy = s.quirkShiftVy := rfl
@[simp] theorem State.setSt_quirkIndexAdvance : (s.setSt b).quirkIndexAdvance = s.quirkIndexAdvance := rfl
@[simp] theorem State.setSt_runState : (s.setSt b).runState = s.runState := rfl
@[simp] theorem State.setSt_mem : (s.setSt b).mem = s.mem := rfl
@[simp] theorem State.setSt_display : (s.setSt b).display = s.display := rfl
@[simp] theorem State.setSt_keysPressed : (s.setSt b).keysPressed = s.keysPressed := rfl
@[simp] theorem State.setSt_keysReleased : (s.setSt b).keysReleased = s.keysReleased := rfl
@[simp] theorem State.setSt_sysNoop : (s.setSt b).sysNoop = s.sysNoop := rfl
@[simp] theorem State.setSt_schedule : (s.setSt b).schedule = s.schedule := rfl
@[simp] theorem State.setSt_randByte : (s.setSt b).randByte = s.randByte := rfl
@[simp] theorem State.setSt_draws : (s.setSt b).draws = s.draws := rfl
@[simp] theorem State.setSt_V (q : Nibble) : (s.setSt b).V q = s.V q := rfl
@[simp] theorem State.setSt_stackCapacity : (s.setSt b).stackCapacity = s.stackCapacity := rfl
end setSt

section setRunState
variable (s : State) (r : RunState)
@[simp] theorem State.setRunState_regs : (s.setRunState r).regs = s.regs := rfl
@[simp] theorem State.setRunState_ir : (s.setRunState r).ir = s.ir := rfl
@[simp] theorem State.setRunState_pc : (s.setRunState r).pc = s.pc := rfl
@[simp] theorem State.setRunState_stack : (s.setRunState r).stack = s.stack := rfl
@[simp] theorem State.setRunState_sp : (s.setRunState r).sp = s.sp := rfl
@[simp] theorem State.setRunState_dt : (s.setRunState r).dt = s.dt := rfl
@[simp] theorem State.setRunState_st : (s.setRunState r).st = s.st := rfl
@[simp] theorem State.setRunState_quirkShiftVy : (s.setRunState r).quirkShiftVy = s.quirkShiftVy := rfl
@[simp] theorem State.setRunState_quirkIndexAdvance : (s.setRunState r).quirkIndexAdvance = s.quirkIndexAdvance := rfl
@[simp] theorem State.setRunState_runState : (s.setRunState r).runState = r := rfl
@[simp] theorem State.setRunState_mem : (s.setRunState r).mem = s.mem := rfl
@[simp] theorem State.setRunState_display : (s.setRunState r).display = s.display := rfl
@[simp] theorem State.setRunState_keysPressed : (s.setRunState r).keysPressed = s.keysPressed := rfl
@[simp] theorem State.setRunState_keysReleased : (s.setRunState r).keysReleased = s.keysReleased := rfl
@[simp] theorem State.setRunState_sysNoop : (s.setRunState r).sysNoop = s.sysNoop := rfl
@[simp] theorem State.setRunState_schedule : (s.setRunState r).schedule = s.schedule := rfl
@[simp] theorem State.setRunState_randByte : (s.setRunState r).randByte = s.randByte := rfl
@[simp] theorem State.setRunState_draws : (s.setRunState r).draws = s.draws := rfl
@[simp] theorem State.setRunState_V (q : Nibble) : (s.setRunState r).V q = s.V q := rfl
@[simp] theorem State.setRunState_stackCapacity : (s.setRunState r).stackCapacity = s.stackCapacity := rfl
end setRunState

section setMem
variable (s : State) (m : Memory)
@[simp] theorem State.setMem_regs : (s.setMem m).regs = s.regs := rfl
@[simp] theorem State.setMem_ir : (s.setMem m).ir = s.ir := rfl
@[simp] theorem State.setMem_pc : (s.setMem m).pc = s.pc := rfl
@[simp] theorem State.setMem_stack : (s.setMem m).stack = s.stack := rfl
@[simp] theorem State.setMem_sp : (s.setMem m).sp = s.sp := rfl
@[simp] theorem State.setMem_dt : (s.setMem m).dt = s.dt := rfl
@[simp] theorem State.setMem_st : (s.setMem m).st = s.st := rfl
@[simp] theorem State.setMem_quirkShiftVy : (s.setMem m).quirkShiftVy = s.quirkShiftVy := rfl
@[simp] theorem State.setMem_quirkIndexAdvance : (s.setMem m).quirkIndexAdvance = s.quirkIndexAdvance := rfl
@[simp] theorem State.setMem_runState : (s.setMem m).runState = s.runState := rfl
@[simp] theorem State.setMem_mem : (s.setMem m).mem = m := rfl
@[simp] theorem State.setMem_display : (s.setMem m).display = s.display := rfl
@[simp] theorem State.setMem_keysPressed : (s.setMem m).keysPressed = s.keysPressed := rfl
@[simp] theorem State.setMem_keysReleased : (s.setMem m).keysReleased = s.keysReleased := rfl
@[simp] theorem State.setMem_sysNoop : (s.setMem m).sysNoop = s.sysNoop := rfl
@[simp] theorem State.setMem_schedule : (s.setMem m).schedule = s.schedule := rfl
@[simp] theorem State.setMem_randByte : (s.setMem m).randByte = s.randByte := rfl
@[simp] theorem State.setMem_draws : (s.setMem m).draws = s.draws := rfl
@[simp] theorem State.setMem_V (q : Nibble) : (s.setMem m).V q = s.V q := rfl
@[simp] theorem State.setMem_stackCapacity : (s.setMem m).stackCapacity = s.stackCapacity := rfl
end setMem

section setDisplay
variable (s : State) (d : Display)
@[simp] theorem State.setDisplay_regs : (s.setDisplay d).regs = s.regs := rfl
@[simp] theorem State.setDisplay_ir : (s.setDisplay d).ir = s.ir := rfl
@[simp] theorem State.setDisplay_pc : (s.setDisplay d).pc = s.pc := rfl
@[simp] theorem State.setDisplay_stack : (s.setDisplay d).stack = s.stack := rfl
@[simp] theorem State.setDisplay_sp : (s.setDisplay d).sp = s.sp := rfl
@[simp] theorem State.setDisplay_dt : (s.setDisplay d).dt = s.dt := rfl
@[simp] theorem State.setDisplay_st : (s.setDisplay d).st = s.st := rfl
@[simp] theorem State.setDisplay_quirkShiftVy : (s.setDisplay d).quirkShiftVy = s.quirkShiftVy := rfl
@[simp] theorem State.setDisplay_quirkIndexAdvance : (s.setDisplay d).quirkIndexAdvance = s.quirkIndexAdvance := rfl
@[simp] theorem State.setDisplay_runState : (s.setDisplay d).runState = s.runState := rfl
@[simp] theorem State.setDisplay_mem : (s.setDisplay d).mem = s.mem := rfl
@[simp] theorem State.setDisplay_display : (s.setDisplay d).display = d := rfl
@[simp] theorem State.setDisplay_keysPressed : (s.setDisplay d).keysPressed = s.keysPressed := rfl
@[simp] theorem State.setDisplay_keysReleased : (s.setDisplay d).keysReleased = s.keysReleased := rfl
@[simp] theorem State.setDisplay_sysNoop : (s.setDisplay d).sysNoop = s.sysNoop := rfl
@[simp] theorem State.setDisplay_schedule : (s.setDisplay d).schedule = s.schedule := rfl
@[simp] theorem State.setDisplay_randByte : (s.setDisplay d).randByte = s.randByte := rfl
@[simp] theorem State.setDisplay_draws : (s.setDisplay d).draws = s.draws := rfl
@[simp] theorem State.setDisplay_V (q : Nibble) : (s.setDisplay d).V q = s.V q := rfl
@[simp] theorem State.setDisplay_stackCapacity : (s.setDisplay d).stackCapacity = s.stackCapacity := rfl
end setDisplay

section setKeysReleased
variable (s : State) (k : Word)
@[simp] theorem State.setKeysReleased_regs : (s.setKeysReleased k).regs = s.regs := rfl
@[simp] theorem State.setKeysReleased_ir : (s.setKeysReleased k).ir = s.ir := rfl
@[simp] theorem State.setKeysReleased_pc : (s.setKeysReleased k).pc = s.pc := rfl
@[simp] theorem State.setKeysReleased_stack : (s.setKeysReleased k).stack = s.stack := rfl
@[simp] theorem State.setKeysReleased_sp : (s.setKeysReleased k).sp = s.sp := rfl
@[simp] theorem State.setKeysReleased_dt : (s.setKeysReleased k).dt = s.dt := rfl
@[simp] theorem State.setKeysReleased_st : (s.setKeysReleased k).st = s.st := rfl
@[simp] theorem State.setKeysReleased_quirkShiftVy : (s.setKeysReleased k).quirkShiftVy = s.quirkShiftVy := rfl
@[simp] theorem State.setKeysReleased_quirkIndexAdvance : (s.setKeysReleased k).quirkIndexAdvance = s.quirkIndexAdvance := rfl
@[simp] theorem State.setKeysReleased_runState : (s.setKeysReleased k).runState = s.runState := rfl
@[simp] theorem State.setKeysReleased_mem : (s.setKeysReleased k).mem = s.mem := rfl
@[simp] theorem State.setKeysReleased_display : (s.setKeysReleased k).display = s.display := rfl
@[simp] theorem State.setKeysReleased_keysPressed : (s.setKeysReleased k).keysPressed = s.keysPressed := rfl
@[simp] theorem State.setKeysReleased_keysReleased : (s.setKeysReleased k).keysReleased = k := rfl
@[simp] theorem State.setKeysReleased_sysNoop : (s.setKeysReleased k).sysNoop = s.sysNoop := rfl
@[simp] theorem State.setKeysReleased_schedule : (s.setKeysReleased k).schedule = s.schedule := rfl
@[simp] theorem State.setKeysReleased_randByte : (s.setKeysReleased k).randByte = s.randByte := rfl
@[simp] theorem State.setKeysReleased_draws : (s.setKeysReleased k).draws = s.draws := rfl
@[simp] theorem State.setKeysReleased_V (q : Nibble) : (s.setKeysReleased k).V q = s.V q := rfl
@[simp] theorem State.setKeysReleased_stackCapacity : (s.setKeysReleased k).stackCapacity = s.stackCapacity := rfl
end setKeysReleased

section setStack
variable (s : State) (l : List Word) (n : Nat)
@[simp] theorem State.setStack_regs : (s.setStack l n).regs = s.regs := rfl
@[simp] theorem State.setStack_ir : (s.setStack l n).ir = s.ir := rfl
@[simp] theorem State.setStack_pc : (s.setStack l n).pc = s.pc := rfl
@[simp] theorem State.setStack_stack : (s.setStack l n).stack = l := rfl
@[simp] theorem State.setStack_sp : (s.setStack l n).sp = n := rfl
@[simp] theorem State.setStack_dt : (s.setStack l n).dt = s.dt := rfl
@[simp] theorem State.setStack_st : (s.setStack l n).st = s.st := rfl
@[simp] theorem State.setStack_quirkShiftVy : (s.setStack l n).quirkShiftVy = s.quirkShiftVy := rfl
@[simp] theorem State.setStack_quirkIndexAdvance : (s.setStack l n).quirkIndexAdvance = s.quirkIndexAdvance := rfl
@[simp] theorem State.setStack_runState : (s.setStack l n).runState = s.runState := rfl
@[simp] theorem State.setStack_mem : (s.setStack l n).mem = s.mem := rfl
@[simp] theorem State.setStack_display : (s.setStack l n).display = s.display := rfl
@[simp] theorem State.setStack_keysPressed : (s.setStack l n).keysPressed = s.keysPressed := rfl
@[simp] theorem State.setStack_keysReleased : (s.setStack l n).keysReleased = s.keysReleased := rfl
@[simp] theorem State.setStack_sysNoop : (s.setStack l n).sysNoop = s.sysNoop := rfl
@[simp] theorem State.setStack_schedule : (s.setStack l n).schedule = s.schedule := rfl
@[simp] theorem State.setStack_randByte : (s.setStack l n).randByte = s.randByte := rfl
@[simp] theorem State.setStack_draws : (s.setStack l n).draws = s.draws := rfl
@[simp] theorem State.setStack_V (q : Nibble) : (s.setStack l n).V q = s.V q := rfl
@[simp] theorem State.setStack_stackCapacity : (s.setStack l n).stackCapacity = l.length := rfl
end setStack

section offerRand
variable (s : State) (r : Byte)
@[simp] theorem State.offerRand_regs : (s.offerRand r).regs = s.regs := rfl
@[simp] theorem State.offerRand_ir : (s.offerRand r).ir = s.ir := rfl
@[simp] theorem State.offerRand_pc : (s.offerRand r).pc = s.pc := rfl
@[simp] theorem State.offerRand_stack : (s.offerRand r).stack = s.stack := rfl
@[simp] theorem State.offerRand_sp : (s.offerRand r).sp = s.sp := rfl
@[simp] theorem State.offerRand_dt : (s.offerRand r).dt = s.dt := rfl
@[simp] theorem State.offerRand_st : (s.offerRand r).st = s.st := rfl
@[simp] theorem State.offerRand_quirkShiftVy : (s.offerRand r).quirkShiftVy = s.quirkShiftVy := rfl
@[simp] theorem State.offerRand_quirkIndexAdvance : (s.offerRand r).quirkIndexAdvance = s.quirkIndexAdvance := rfl
@[simp] theorem State.offerRand_runState : (s.offerRand r).runState = s.runState := rfl
@[simp] theorem State.offerRand_mem : (s.offerRand r).mem = s.mem := rfl
@[simp] theorem State.offerRand_display : (s.offerRand r).display = s.display := rfl
@[simp] theorem State.offerRand_keysPressed : (s.offerRand r).keysPressed = s.keysPressed := rfl
@[simp] theorem State.offerRand_keysReleased : (s.offerRand r).keysReleased = s.keysReleased := rfl
@[simp] theorem State.offerRand_sysNoop : (s.offerRand r).sysNoop = s.sysNoop := rfl
@[simp] theorem State.offerRand_schedule : (s.offerRand r).schedule = s.schedule := rfl
@[simp] theorem State.offerRand_randByte : (s.offerRand r).randByte = r := rfl
@[simp] theorem State.offerRand_draws : (s.offerRand r).draws = s.draws + 1 := rfl
@[simp] theorem State.offerRand_V (q : Nibble) : (s.offerRand r).V q = s.V q := rfl
@[simp] theorem State.offerRand_stackCapacity : (s.offerRand r).stackCapacity = s.stackCapacity := rfl
end offerRand

section advancePc
variable (s : State)
@[simp] theorem State.advancePc_regs : (s.advancePc).regs = s.regs := rfl
@[simp] theorem State.advancePc_ir : (s.advancePc).ir = s.ir := rfl
@[simp] theorem State.advancePc_pc : (s.advancePc).pc = s.pc + 2#16 := rfl
@[simp] theorem State.advancePc_stack : (s.advancePc).stack = s.stack := rfl
@[simp] theorem State.advancePc_sp : (s.advancePc).sp = s.sp := rfl
@[simp] theorem State.advancePc_dt : (s.advancePc).dt = s.dt := rfl
@[simp] theorem State.advancePc_st : (s.advancePc).st = s.st := rfl
@[simp] theorem State.advancePc_quirkShiftVy : (s.advancePc).quirkShiftVy = s.quirkShiftVy := rfl
@[simp] theorem State.advancePc_quirkIndexAdvance : (s.advancePc).quirkIndexAdvance = s.quirkIndexAdvance := rfl
@[simp] theorem State.advancePc_runState : (s.advancePc).runState = s.runState := rfl
@[simp] theorem State.advancePc_mem : (s.advancePc).mem = s.mem := rfl
@[simp] theorem State.advancePc_display : (s.advancePc).display = s.display := rfl
@[simp] theorem State.advancePc_keysPressed : (s.advancePc).keysPressed = s.keysPressed := rfl
@[simp] theorem State.advancePc_keysReleased : (s.advancePc).keysReleased = s.keysReleased := rfl
@[simp] theorem State.advancePc_sysNoop : (s.advancePc).sysNoop = s.sysNoop := rfl
@[simp] theorem State.advancePc_schedule : (s.advancePc).schedule = s.schedule := rfl
@[simp] theorem State.advancePc_randByte : (s.advancePc).randByte = s.randByte := rfl
@[simp] theorem State.advancePc_draws : (s.advancePc).draws = s.draws := rfl
@[simp] theorem State.advancePc_V (q : Nibble) : (s.advancePc).V q = s.V q := rfl
@[simp] theorem State.advancePc_stackCapacity : (s.advancePc).stackCapacity = s.stackCapacity := rfl
end advancePc

section loadRegs
variable (s : State) (bs : List Byte)
@[simp] theorem State.loadRegs_regs : (s.loadRegs bs).regs = loadRegsFrom 0 bs s.regs := rfl
@[simp] theorem State.loadRegs_ir : (s.loadRegs bs).ir = s.ir := rfl
@[simp] theorem State.loadRegs_pc : (s.loadRegs bs).pc = s.pc := rfl
@[simp] theorem State.loadRegs_stack : (s.loadRegs bs).stack = s.stack := rfl
@[simp] theorem State.loadRegs_sp : (s.loadRegs bs).sp = s.sp := rfl
@[simp] theorem State.loadRegs_dt : (s.loadRegs bs).dt = s.dt := rfl
@[simp] theorem State.loadRegs_st : (s.loadRegs bs).st = s.st := rfl
@[simp] theorem State.loadRegs_quirkShiftVy : (s.loadRegs bs).quirkShiftVy = s.quirkShiftVy := rfl
@[simp] theorem State.loadRegs_quirkIndexAdvance : (s.loadRegs bs).quirkIndexAdvance = s.quirkIndexAdvance := rfl
@[simp] theorem State.loadRegs_runState : (s.loadRegs bs).runState = s.runState := rfl
@[simp] theorem State.loadRegs_mem : (s.loadRegs bs).mem = s.mem := rfl
@[simp] theorem State.loadRegs_display : (s.loadRegs bs).display = s.display := rfl
@[simp] theorem State.loadRegs_keysPressed : (s.loadRegs bs).keysPressed = s.keysPressed := rfl
@[simp] theorem State.loadRegs_keysReleased : (s.loadRegs bs).keysReleased = s.keysReleased := rfl
@[simp] theorem State.loadRegs_sysNoop : (s.loadRegs bs).sysNoop = s.sysNoop := rfl
@[simp] theorem State.loadRegs_schedule : (s.loadRegs bs).schedule = s.schedule := rfl
@[simp] theorem State.loadRegs_randByte : (s.loadRegs bs).randByte = s.randByte := rfl
@[simp] theorem State.loadRegs_draws : (s.loadRegs bs).draws = s.draws := rfl
@[simp] theorem State.loadRegs_stackCapacity : (s.loadRegs bs).stackCapacity = s.stackCapacity := rfl
end loadRegs

/-! ## General registers -/

/-- Reading the register just written. -/
@[simp] theorem State.setV_V_same (s : State) (r : Nibble) (b : Byte) : (s.setV r b).V r = b := by
  simp [State.V, State.setV]

/-- Reading another register than the one written. -/
theorem State.setV_V_ne (s : State) {r q : Nibble} (b : Byte) (h : q ≠ r) : (s.setV r b).V q = s.V q := by
  have h' : r.toNat ≠ q.toNat := fun e => h (BitVec.eq_of_toNat_eq e).symm
  simp [State.V, State.setV, h']

/-- Two states with the same registers read the same register values. -/
theorem State.V_congr {s t : State} (h : t.regs = s.regs) (r : Nibble) : t.V r = s.V r := by
  simp [State.V, h]

/-- The machine's registers are told by `State.V`. -/
theorem State.regs_ext {v w : Vector Byte 16} (h : ∀ r : Nibble, v[r.toNat]'r.isLt = w[r.toNat]'r.isLt) : v = w := by
  apply Vector.ext
  intro i hi
  simpa [Nat.mod_eq_of_lt hi] using h (BitVec.ofNat 4 i)

/-! ## The conditional updates -/

@[simp] theorem State.advanceIndex_of_not (s : State) (x : Nibble) (h : s.quirkIndexAdvance = false) :
    State.advanceIndex x s = s := by simp [State.advanceIndex, h]

@[simp] theorem State.advanceIndex_of_set (s : State) (x : Nibble) (h : s.quirkIndexAdvance = true) :
    State.advanceIndex x s = s.setIr (s.ir + BitVec.ofNat 16 (regCount x)) := by simp [State.advanceIndex, h]

/-- The index advance changes `ir` only. -/
theorem State.advanceIndex_eq (s : State) (x : Nibble) :
    State.advanceIndex x s =
      s.setIr (if s.quirkIndexAdvance then s.ir + BitVec.ofNat 16 (regCount x) else s.ir) := by
  unfold State.advanceIndex
  split <;> rfl

/-- The index advance changes no general register. -/
@[simp] theorem State.advanceIndex_V (s : State) (x r : Nibble) : (State.advanceIndex x s).V r = s.V r := by
  rw [State.advanceIndex_eq]; rfl

/-- The index advance changes no memory. -/
@[simp] theorem State.advanceIndex_mem (s : State) (x : Nibble) : (State.advanceIndex x s).mem = s.mem := by
  rw [State.advanceIndex_eq]; rfl

end Sys2Proof.Machine
end

