-- ==== Sys2Proof/Laws/Ops.lean ====
section
/-! SUPPORT. One lemma for each shared operation that says once everything it can do; later proofs cite these and do not
unfold the operation. -/

namespace Sys2Proof.Machine

/-! ## Raising -/

/-- Raising a runtime error halts the machine and changes nothing else. -/
@[simp] theorem raise_eq (c : Cause) (info : Word) (s : State) : raise c info s = .next (s.haltedBy c info) := rfl

/-- The explicit halt changes the run state only. -/
@[simp] theorem raiseHalt_eq (s : State) : raiseHalt s = .next (s.setRunState (.halted .explicitHalt)) := rfl

@[simp] theorem State.haltedBy_runState (s : State) (c : Cause) (info : Word) :
    (s.haltedBy c info).runState = .halted (.runtimeError c info) := rfl

@[simp] theorem State.haltedBy_regs (s : State) (c : Cause) (info : Word) : (s.haltedBy c info).regs = s.regs := rfl
@[simp] theorem State.haltedBy_ir (s : State) (c : Cause) (info : Word) : (s.haltedBy c info).ir = s.ir := rfl
@[simp] theorem State.haltedBy_pc (s : State) (c : Cause) (info : Word) : (s.haltedBy c info).pc = s.pc := rfl
@[simp] theorem State.haltedBy_stack (s : State) (c : Cause) (info : Word) : (s.haltedBy c info).stack = s.stack := rfl
@[simp] theorem State.haltedBy_sp (s : State) (c : Cause) (info : Word) : (s.haltedBy c info).sp = s.sp := rfl
@[simp] theorem State.haltedBy_dt (s : State) (c : Cause) (info : Word) : (s.haltedBy c info).dt = s.dt := rfl
@[simp] theorem State.haltedBy_st (s : State) (c : Cause) (info : Word) : (s.haltedBy c info).st = s.st := rfl
@[simp] theorem State.haltedBy_quirkShiftVy (s : State) (c : Cause) (info : Word) : (s.haltedBy c info).quirkShiftVy = s.quirkShiftVy := rfl
@[simp] theorem State.haltedBy_quirkIndexAdvance (s : State) (c : Cause) (info : Word) : (s.haltedBy c info).quirkIndexAdvance = s.quirkIndexAdvance := rfl
@[simp] theorem State.haltedBy_mem (s : State) (c : Cause) (info : Word) : (s.haltedBy c info).mem = s.mem := rfl
@[simp] theorem State.haltedBy_display (s : State) (c : Cause) (info : Word) : (s.haltedBy c info).display = s.display := rfl
@[simp] theorem State.haltedBy_keysPressed (s : State) (c : Cause) (info : Word) : (s.haltedBy c info).keysPressed = s.keysPressed := rfl
@[simp] theorem State.haltedBy_keysReleased (s : State) (c : Cause) (info : Word) : (s.haltedBy c info).keysReleased = s.keysReleased := rfl
@[simp] theorem State.haltedBy_sysNoop (s : State) (c : Cause) (info : Word) : (s.haltedBy c info).sysNoop = s.sysNoop := rfl
@[simp] theorem State.haltedBy_schedule (s : State) (c : Cause) (info : Word) : (s.haltedBy c info).schedule = s.schedule := rfl
@[simp] theorem State.haltedBy_randByte (s : State) (c : Cause) (info : Word) : (s.haltedBy c info).randByte = s.randByte := rfl
@[simp] theorem State.haltedBy_draws (s : State) (c : Cause) (info : Word) : (s.haltedBy c info).draws = s.draws := rfl
@[simp] theorem State.haltedBy_stackCapacity (s : State) (c : Cause) (info : Word) :
    (s.haltedBy c info).stackCapacity = s.stackCapacity := rfl

@[simp] theorem State.haltedBy_V (s : State) (c : Cause) (info : Word) (r : Nibble) :
    (s.haltedBy c info).V r = s.V r := rfl

/-! ## Skips -/

/-- A skip changes `pc` only, by 2 when it is taken. -/
theorem skipIf_eq (c : Bool) (s : State) : skipIf c s = .next (s.setPc (if c then s.pc + 2#16 else s.pc)) := by
  cases c <;> rfl

/-- A key skip raises on a register value above 15 and is a plain skip on the key's pressed bit otherwise. -/
theorem skipOnKey_eq (w : Word) (x : Nibble) (want : Bool) (s : State) :
    skipOnKey w x want s =
      if (s.V x).toNat > 15 then .next (s.haltedBy .badKeyIndex w)
      else .next (s.setPc (if s.keyPressed (s.V x).toNat = want then s.pc + 2#16 else s.pc)) := by
  unfold skipOnKey
  rw [skipIf_eq, raise_eq]
  simp

/-! ## The call stack -/

/-- Pushing on a full stack raises and pushes nothing. -/
theorem pushAndJump_full {w a : Word} {s : State} (h : s.sp = s.stackCapacity) :
    pushAndJump w a s = .next (s.haltedBy .stackOverflow w) := by
  simp [pushAndJump, h]

/-- Pushing on a stack with room stores `pc` at `stack[sp]`, raises `sp` by one and jumps. -/
theorem pushAndJump_room {w a : Word} {s : State} (h : s.sp < s.stackCapacity) :
    pushAndJump w a s = .next ((s.setStack (s.stack.set s.sp s.pc) (s.sp + 1)).setPc a) := by
  simp [pushAndJump, h, Nat.ne_of_lt h]

/-- Popping an empty stack raises. -/
theorem popToPc_empty {w : Word} {s : State} (h : s.sp = 0) :
    popToPc w s = .next (s.haltedBy .stackUnderflow w) := by
  simp [popToPc, h]

/-- Popping lowers `sp` by one and jumps to the entry, which stays in its place. -/
theorem popToPc_some {w a : Word} {s : State} (h0 : s.sp ≠ 0) (h : s.stack[s.sp - 1]? = some a) :
    popToPc w s = .next ((s.setStack s.stack (s.sp - 1)).setPc a) := by
  simp [popToPc, h0, h]

/-- Within its capacity the stack has an entry to pop. -/
theorem popToPc_inv {w : Word} {s : State} (h0 : s.sp ≠ 0) (h : s.sp ≤ s.stackCapacity) :
    ∃ a, s.stack[s.sp - 1]? = some a ∧ popToPc w s = .next ((s.setStack s.stack (s.sp - 1)).setPc a) := by
  have hlt : s.sp - 1 < s.stack.length := by unfold State.stackCapacity at h; omega
  exact ⟨_, List.getElem?_eq_getElem hlt, popToPc_some h0 (List.getElem?_eq_getElem hlt)⟩

/-- Everything a push can do. -/
theorem pushAndJump_cases (w a : Word) (s : State) :
    (s.sp = s.stackCapacity ∧ pushAndJump w a s = .next (s.haltedBy .stackOverflow w)) ∨
    (s.sp < s.stackCapacity ∧
      pushAndJump w a s = .next ((s.setStack (s.stack.set s.sp s.pc) (s.sp + 1)).setPc a)) ∨
    (s.stackCapacity < s.sp ∧ pushAndJump w a s = .fault .stackEntryAbsent) := by
  rcases Nat.lt_trichotomy s.sp s.stackCapacity with h | h | h
  · exact .inr (.inl ⟨h, pushAndJump_room h⟩)
  · exact .inl ⟨h, pushAndJump_full h⟩
  · exact .inr (.inr ⟨h, by rw [pushAndJump, if_neg (by omega), if_neg (by omega)]⟩)

/-- Everything a pop can do. -/
theorem popToPc_cases (w : Word) (s : State) :
    (s.sp = 0 ∧ popToPc w s = .next (s.haltedBy .stackUnderflow w)) ∨
    (∃ a, s.sp ≠ 0 ∧ s.stack[s.sp - 1]? = some a ∧
      popToPc w s = .next ((s.setStack s.stack (s.sp - 1)).setPc a)) ∨
    (s.stackCapacity < s.sp ∧ popToPc w s = .fault .stackEntryAbsent) := by
  by_cases h0 : s.sp = 0
  · exact .inl ⟨h0, popToPc_empty h0⟩
  · cases h : s.stack[s.sp - 1]? with
    | some a => exact .inr (.inl ⟨a, h0, rfl, popToPc_some h0 h⟩)
    | none =>
      have hle := List.getElem?_eq_none_iff.mp h
      refine .inr (.inr ⟨?_, by simp [popToPc, h0, h]⟩)
      unfold State.stackCapacity
      omega

/-! ## Checked accesses -/

/-- A store within memory writes its bytes, then applies `post`. -/
theorem storeBytes_of_inRange {w : Word} {a : Nat} {bs : List Byte} {post : State → State} {s : State}
    (h : Memory.inRange a bs.length = true) :
    storeBytes w a bs post s = .next (post (s.setMem (s.mem.writeAll a bs))) := by
  simp [storeBytes, Memory.writeBytes?_of_inRange h]

/-- A store past the end of memory raises and writes nothing. -/
theorem storeBytes_of_not_inRange {w : Word} {a : Nat} {bs : List Byte} {post : State → State} {s : State}
    (h : Memory.inRange a bs.length = false) :
    storeBytes w a bs post s = .next (s.haltedBy .memoryOutOfRange w) := by
  simp [storeBytes, Memory.writeBytes?_of_not_inRange h]

/-- A load within memory hands its bytes to `post`. -/
theorem loadBytes_of_inRange {w : Word} {a n : Nat} {post : List Byte → State → State} {s : State}
    (h : Memory.inRange a n = true) :
    loadBytes w a n post s = .next (post ((List.range n).map fun i => s.mem.read (a + i)) s) := by
  simp [loadBytes, Memory.readBytes?_of_inRange h]

/-- A load past the end of memory raises. -/
theorem loadBytes_of_not_inRange {w : Word} {a n : Nat} {post : List Byte → State → State} {s : State}
    (h : Memory.inRange a n = false) :
    loadBytes w a n post s = .next (s.haltedBy .memoryOutOfRange w) := by
  simp [loadBytes, Memory.readBytes?_of_not_inRange h]

/-- Everything a checked store can do. -/
theorem storeBytes_cases (w : Word) (a : Nat) (bs : List Byte) (post : State → State) (s : State) :
    (Memory.inRange a bs.length = true ∧
      storeBytes w a bs post s = .next (post (s.setMem (s.mem.writeAll a bs)))) ∨
    (Memory.inRange a bs.length = false ∧ storeBytes w a bs post s = .next (s.haltedBy .memoryOutOfRange w)) := by
  cases h : Memory.inRange a bs.length with
  | true => exact .inl ⟨rfl, storeBytes_of_inRange h⟩
  | false => exact .inr ⟨rfl, storeBytes_of_not_inRange h⟩

/-- Everything a checked load can do. -/
theorem loadBytes_cases (w : Word) (a n : Nat) (post : List Byte → State → State) (s : State) :
    (Memory.inRange a n = true ∧
      loadBytes w a n post s = .next (post ((List.range n).map fun i => s.mem.read (a + i)) s)) ∨
    (Memory.inRange a n = false ∧ loadBytes w a n post s = .next (s.haltedBy .memoryOutOfRange w)) := by
  cases h : Memory.inRange a n with
  | true => exact .inl ⟨rfl, loadBytes_of_inRange h⟩
  | false => exact .inr ⟨rfl, loadBytes_of_not_inRange h⟩

/-- The registers after bytes are written from register `i` on. -/
theorem loadRegsFrom_getElem (i : Nat) (bs : List Byte) (v : Vector Byte 16) (j : Nat) (hj : j < 16) :
    (loadRegsFrom i bs v)[j] = if i ≤ j ∧ j < i + bs.length then bs.getD (j - i) 0 else v[j] := by
  induction bs generalizing i v with
  | nil => simp [loadRegsFrom]
  | cons b bs ih =>
    rw [loadRegsFrom, ih, List.length_cons]
    by_cases h : i = j
    · subst h
      rw [if_neg (by omega), if_pos (by omega)]
      simp
    · by_cases hr : i + 1 ≤ j ∧ j < i + 1 + bs.length
      · rw [if_pos hr, if_pos (by omega), show j - i = (j - (i + 1)) + 1 by omega, List.getD_cons_succ]
      · rw [if_neg hr, if_neg (by omega)]
        simp [h]

/-- The registers after a load of `bs`: register `r` holds byte `r` where there is one and its old value elsewhere. -/
theorem State.loadRegs_V (s : State) (bs : List Byte) (r : Nibble) :
    (s.loadRegs bs).V r = if r.toNat < bs.length then bs.getD r.toNat 0 else s.V r := by
  simp only [State.V, State.loadRegs_regs, loadRegsFrom_getElem _ _ _ _ r.isLt, Nat.zero_add, Nat.zero_le, true_and,
    Nat.sub_zero]

/-! ## Operands -/

@[simp] theorem State.dumpBytes_length (s : State) (x : Nibble) : (s.dumpBytes x).length = regCount x := by
  have := x.isLt
  simp [State.dumpBytes, regCount]
  omega

/-- The `i`-th byte ST_REGS stores is `V[i]`. -/
theorem State.dumpBytes_getD (s : State) (x i : Nibble) (h : i.toNat ≤ x.toNat) :
    (s.dumpBytes x).getD i.toNat 0 = s.V i := by
  have hi : i.toNat < 16 := i.isLt
  have hx : i.toNat < regCount x := by unfold regCount; omega
  simp only [State.dumpBytes, List.getD_eq_getElem?_getD, List.getElem?_take, if_pos hx]
  rw [List.getElem?_eq_getElem (by simpa using hi)]
  simp [State.V]

@[simp] theorem bcdDigits_length (v : Byte) : (bcdDigits v).length = 3 := rfl

/-- The three digits are the value's. -/
theorem bcdDigits_eq (v : Byte) :
    (BitVec.ofNat 8 (v.toNat / 100)).toNat = v.toNat / 100 ∧
      (BitVec.ofNat 8 (v.toNat / 10 % 10)).toNat = v.toNat / 10 % 10 ∧
        (BitVec.ofNat 8 (v.toNat % 10)).toNat = v.toNat % 10 := by
  have := v.isLt
  refine ⟨?_, ?_, ?_⟩ <;> rw [BitVec.toNat_ofNat] <;> omega

/-- The address immediate as a number. -/
@[simp] theorem addrImm_toNat (nnn : Addr12) : (addrImm nnn).toNat = nnn.toNat := by
  have := nnn.isLt
  simp only [addrImm, BitVec.toNat_setWidth]
  omega

/-- A register as an addend of an address, as a number. -/
@[simp] theorem State.regAsAddr_toNat (s : State) (r : Nibble) : (s.regAsAddr r).toNat = (s.V r).toNat := by
  have := (s.V r).isLt
  simp only [State.regAsAddr, BitVec.toNat_setWidth]
  omega

/-- The glyph's address never wraps (42_index_memory.md R122). -/
@[simp] theorem glyphAddr_toNat (v : Byte) : (glyphAddr v).toNat = 5 * v.toNat := by
  have := v.isLt
  simp only [glyphAddr, Config.fontStride, BitVec.toNat_ofNat]
  omega

/-! ## Flags -/

@[simp] theorem flagByte_toNat (c : Bool) : (flagByte c).toNat = if c then 1 else 0 := by cases c <;> rfl

/-- Result and flag: the run goes on, `VF` holds the flag, `V[x]` (if it is not `VF`) the result, and no other register
and nothing else changes. -/
theorem writeWithFlag_spec (x : Nibble) (r : Byte) (f : Bool) (s : State) :
    ∃ t, writeWithFlag x r f s = .next t ∧ t.V VF = flagByte f ∧ (x ≠ VF → t.V x = r) ∧ OnlyRegs [x, VF] s t := by
  refine ⟨_, rfl, State.setV_V_same _ _ _, fun h => ?_, rfl, fun q hq => ?_⟩
  · rw [State.setV_V_ne _ _ h, State.setV_V_same]
  · simp only [List.mem_cons, List.not_mem_nil, or_false, not_or] at hq
    rw [State.setV_V_ne _ _ hq.2, State.setV_V_ne _ _ hq.1]

/-- Writing one register changes nothing else. -/
theorem onlyRegs_setV (s : State) (x : Nibble) (b : Byte) : OnlyRegs [x] s (s.setV x b) :=
  ⟨rfl, fun q hq => State.setV_V_ne _ _ (by simpa using hq)⟩

/-! ## Other display flags -/

@[simp] theorem State.withDisplayFlags_regs (s : State) (d : Grid) (w : Bool) :
    (s.withDisplayFlags d w).regs = s.regs := rfl
@[simp] theorem State.withDisplayFlags_ir (s : State) (d : Grid) (w : Bool) :
    (s.withDisplayFlags d w).ir = s.ir := rfl
@[simp] theorem State.withDisplayFlags_pc (s : State) (d : Grid) (w : Bool) :
    (s.withDisplayFlags d w).pc = s.pc := rfl
@[simp] theorem State.withDisplayFlags_stack (s : State) (d : Grid) (w : Bool) :
    (s.withDisplayFlags d w).stack = s.stack := rfl
@[simp] theorem State.withDisplayFlags_sp (s : State) (d : Grid) (w : Bool) :
    (s.withDisplayFlags d w).sp = s.sp := rfl
@[simp] theorem State.withDisplayFlags_dt (s : State) (d : Grid) (w : Bool) :
    (s.withDisplayFlags d w).dt = s.dt := rfl
@[simp] theorem State.withDisplayFlags_st (s : State) (d : Grid) (w : Bool) :
    (s.withDisplayFlags d w).st = s.st := rfl
@[simp] theorem State.withDisplayFlags_quirkShiftVy (s : State) (d : Grid) (w : Bool) :
    (s.withDisplayFlags d w).quirkShiftVy = s.quirkShiftVy := rfl
@[simp] theorem State.withDisplayFlags_quirkIndexAdvance (s : State) (d : Grid) (w : Bool) :
    (s.withDisplayFlags d w).quirkIndexAdvance = s.quirkIndexAdvance := rfl
@[simp] theorem State.withDisplayFlags_runState (s : State) (d : Grid) (w : Bool) :
    (s.withDisplayFlags d w).runState = s.runState := rfl
@[simp] theorem State.withDisplayFlags_mem (s : State) (d : Grid) (w : Bool) :
    (s.withDisplayFlags d w).mem = s.mem := rfl
@[simp] theorem State.withDisplayFlags_keysPressed (s : State) (d : Grid) (w : Bool) :
    (s.withDisplayFlags d w).keysPressed = s.keysPressed := rfl
@[simp] theorem State.withDisplayFlags_keysReleased (s : State) (d : Grid) (w : Bool) :
    (s.withDisplayFlags d w).keysReleased = s.keysReleased := rfl
@[simp] theorem State.withDisplayFlags_sysNoop (s : State) (d : Grid) (w : Bool) :
    (s.withDisplayFlags d w).sysNoop = s.sysNoop := rfl
@[simp] theorem State.withDisplayFlags_schedule (s : State) (d : Grid) (w : Bool) :
    (s.withDisplayFlags d w).schedule = s.schedule := rfl
@[simp] theorem State.withDisplayFlags_randByte (s : State) (d : Grid) (w : Bool) :
    (s.withDisplayFlags d w).randByte = s.randByte := rfl
@[simp] theorem State.withDisplayFlags_draws (s : State) (d : Grid) (w : Bool) :
    (s.withDisplayFlags d w).draws = s.draws := rfl
@[simp] theorem State.withDisplayFlags_fb (s : State) (d : Grid) (w : Bool) :
    (s.withDisplayFlags d w).display.fb = s.display.fb := rfl
@[simp] theorem State.withDisplayFlags_V (s : State) (d : Grid) (w : Bool) (r : Nibble) :
    (s.withDisplayFlags d w).V r = s.V r := rfl

/-! ## Drawing -/

@[simp] theorem drawSprite_ir (x y : Nibble) (bs : List Byte) (s : State) :
    (drawSprite x y bs s).ir = s.ir := rfl
@[simp] theorem drawSprite_pc (x y : Nibble) (bs : List Byte) (s : State) :
    (drawSprite x y bs s).pc = s.pc := rfl
@[simp] theorem drawSprite_stack (x y : Nibble) (bs : List Byte) (s : State) :
    (drawSprite x y bs s).stack = s.stack := rfl
@[simp] theorem drawSprite_sp (x y : Nibble) (bs : List Byte) (s : State) :
    (drawSprite x y bs s).sp = s.sp := rfl
@[simp] theorem drawSprite_dt (x y : Nibble) (bs : List Byte) (s : State) :
    (drawSprite x y bs s).dt = s.dt := rfl
@[simp] theorem drawSprite_st (x y : Nibble) (bs : List Byte) (s : State) :
    (drawSprite x y bs s).st = s.st := rfl
@[simp] theorem drawSprite_quirkShiftVy (x y : Nibble) (bs : List Byte) (s : State) :
    (drawSprite x y bs s).quirkShiftVy = s.quirkShiftVy := rfl
@[simp] theorem drawSprite_quirkIndexAdvance (x y : Nibble) (bs : List Byte) (s : State) :
    (drawSprite x y bs s).quirkIndexAdvance = s.quirkIndexAdvance := rfl
@[simp] theorem drawSprite_runState (x y : Nibble) (bs : List Byte) (s : State) :
    (drawSprite x y bs s).runState = s.runState := rfl
@[simp] theorem drawSprite_mem (x y : Nibble) (bs : List Byte) (s : State) :
    (drawSprite x y bs s).mem = s.mem := rfl
@[simp] theorem drawSprite_keysPressed (x y : Nibble) (bs : List Byte) (s : State) :
    (drawSprite x y bs s).keysPressed = s.keysPressed := rfl
@[simp] theorem drawSprite_keysReleased (x y : Nibble) (bs : List Byte) (s : State) :
    (drawSprite x y bs s).keysReleased = s.keysReleased := rfl
@[simp] theorem drawSprite_sysNoop (x y : Nibble) (bs : List Byte) (s : State) :
    (drawSprite x y bs s).sysNoop = s.sysNoop := rfl
@[simp] theorem drawSprite_schedule (x y : Nibble) (bs : List Byte) (s : State) :
    (drawSprite x y bs s).schedule = s.schedule := rfl
@[simp] theorem drawSprite_randByte (x y : Nibble) (bs : List Byte) (s : State) :
    (drawSprite x y bs s).randByte = s.randByte := rfl
@[simp] theorem drawSprite_draws (x y : Nibble) (bs : List Byte) (s : State) :
    (drawSprite x y bs s).draws = s.draws := rfl
@[simp] theorem drawSprite_stackCapacity (x y : Nibble) (bs : List Byte) (s : State) :
    (drawSprite x y bs s).stackCapacity = s.stackCapacity := rfl
/-- Drawing draws the sprite's pixels at the coordinates held before `VF` is written. -/
@[simp] theorem drawSprite_display (x y : Nibble) (bs : List Byte) (s : State) :
    (drawSprite x y bs s).display =
      (Display.drawPixels (spritePixels bs (s.V x).toNat (s.V y).toNat) s.display).2 := rfl
/-- The collision goes to `VF`. -/
@[simp] theorem drawSprite_VF (x y : Nibble) (bs : List Byte) (s : State) :
    (drawSprite x y bs s).V VF =
      flagByte (Display.drawPixels (spritePixels bs (s.V x).toNat (s.V y).toNat) s.display).1 := by
  simp [drawSprite]
/-- No other register changes. -/
theorem drawSprite_V_ne (x y : Nibble) (bs : List Byte) (s : State) {r : Nibble} (h : r ≠ VF) :
    (drawSprite x y bs s).V r = s.V r := by
  simp [drawSprite, State.setV_V_ne _ _ h]

/-! ## The keys -/

/-- Polling with no key released changes nothing. -/
theorem pollKey_none {xw : Nibble} {s : State} (h : s.keysReleased = 0x0000#16) : pollKey xw s = .next s := by
  simp [pollKey, State.readAnyKey, h, lowestKey_zero]

/-- Polling with a key released stores the lowest one, clears the whole mask and resumes. -/
theorem pollKey_some {xw : Nibble} {s : State} (h : s.keysReleased ≠ 0x0000#16) :
    ∃ k, k < 16 ∧ s.keysReleased.getLsbD k = true ∧ (∀ j < k, s.keysReleased.getLsbD j = false) ∧
      pollKey xw s =
        .next (((s.setKeysReleased 0x0000#16).setV xw (BitVec.ofNat 8 k)).setRunState .running) := by
  cases hk : lowestKey s.keysReleased with
  | none => exact absurd (lowestKey_none hk) h
  | some k =>
    obtain ⟨h1, h2, h3⟩ := lowestKey_some hk
    exact ⟨k, h1, h2, h3, by simp [pollKey, State.readAnyKey, hk]⟩

/-! ## The fetch -/

/-- The fetch answers the big-endian word at `pc` when both bytes are in memory. -/
theorem fetchWord_of_lt {s : State} (h : s.pc.toNat + 1 < Config.memSize) :
    fetchWord s = some (wordOfBytes (s.mem.read s.pc.toNat) (s.mem.read (s.pc.toNat + 1))) := by
  simp [fetchWord, h]

/-- The fetch answers nothing when its second byte is past the end of memory. -/
theorem fetchWord_of_ge {s : State} (h : ¬ s.pc.toNat + 1 < Config.memSize) : fetchWord s = none := by
  simp [fetchWord, h]

end Sys2Proof.Machine
end

