-- ==== Sys2Proof/Laws/Exec.lean ====
section
/-! SUPPORT. What each meaning with more than one outcome can do, in the arithmetic of the spec's own conditions (the
table of spec/60_exceptions.md R152); the other meanings are one next state by unfolding. -/

namespace Sys2Proof.Machine

/-! ## The bounds checks as arithmetic -/

theorem inRange_block {a : Nat} {x : Nibble} :
    Memory.inRange a (regCount x) = true ↔ a + x.toNat < Config.memSize := by
  rw [Memory.inRange_bound (show regCount x ≠ 0 from Nat.succ_ne_zero _)]
  unfold regCount
  omega

theorem inRange_bcd {a : Nat} {v : Byte} :
    Memory.inRange a (bcdDigits v).length = true ↔ a + 2 < Config.memSize := by
  rw [bcdDigits_length, Memory.inRange_bound (by decide)]
  omega

theorem inRange_sprite {s : State} {n : Nibble} :
    Memory.inRange s.dataAddr n.toNat = true ↔ SpriteInMemory s n := Memory.inRange_iff

/-! ## Every outcome -/

/-- RET. -/
theorem exec_ret_cases (s : State) :
    (s.sp = 0 ∧ exec .ret s = .next (s.haltedBy .stackUnderflow (encode .ret))) ∨
    (∃ a, s.sp ≠ 0 ∧ s.stack[s.sp - 1]? = some a ∧
      exec .ret s = .next ((s.setStack s.stack (s.sp - 1)).setPc a)) ∨
    (s.stackCapacity < s.sp ∧ exec .ret s = .fault .stackEntryAbsent) := popToPc_cases _ s

/-- CALL. -/
theorem exec_call_cases (nnn : Addr12) (s : State) :
    (s.sp = s.stackCapacity ∧ exec (.call nnn) s = .next (s.haltedBy .stackOverflow (encode (.call nnn)))) ∨
    (s.sp < s.stackCapacity ∧
      exec (.call nnn) s = .next ((s.setStack (s.stack.set s.sp s.pc) (s.sp + 1)).setPc (addrImm nnn))) ∨
    (s.stackCapacity < s.sp ∧ exec (.call nnn) s = .fault .stackEntryAbsent) := pushAndJump_cases _ _ s

/-- JP: the comparison with `pc0`, in numbers. -/
theorem exec_jp_cases (nnn : Addr12) (s : State) :
    (nnn.toNat = s.instrAddr.toNat ∧
      exec (.jp nnn) s = .next ((s.setPc s.instrAddr).setRunState (.halted .explicitHalt))) ∨
    (nnn.toNat ≠ s.instrAddr.toNat ∧ exec (.jp nnn) s = .next (s.setPc (addrImm nnn))) := by
  have e : addrImm nnn = s.instrAddr ↔ nnn.toNat = s.instrAddr.toNat := by rw [← BitVec.toNat_inj, addrImm_toNat]
  by_cases h : nnn.toNat = s.instrAddr.toNat
  · exact .inl ⟨h, if_pos (e.mpr h)⟩
  · exact .inr ⟨h, if_neg (mt e.mp h)⟩

/-- LD_B_VX. -/
theorem exec_ldBVx_cases (x : Nibble) (s : State) :
    (s.ir.toNat + 2 < Config.memSize ∧
      exec (.ldBVx x) s = .next (s.setMem (s.mem.writeAll s.dataAddr (bcdDigits (s.V x))))) ∨
    (s.ir.toNat + 2 ≥ Config.memSize ∧
      exec (.ldBVx x) s = .next (s.haltedBy .memoryOutOfRange (encode (.ldBVx x)))) := by
  rcases storeBytes_cases (encode (.ldBVx x)) s.dataAddr (bcdDigits (s.V x)) id s with ⟨h, e⟩ | ⟨h, e⟩
  · exact .inl ⟨inRange_bcd.mp h, e⟩
  · exact .inr ⟨Nat.le_of_not_lt (mt inRange_bcd.mpr (Bool.eq_false_iff.mp h)), e⟩

/-- ST_REGS. -/
theorem exec_stRegs_cases (x : Nibble) (s : State) :
    (s.ir.toNat + x.toNat < Config.memSize ∧
      exec (.stRegs x) s =
        .next (State.advanceIndex x (s.setMem (s.mem.writeAll s.dataAddr (s.dumpBytes x))))) ∨
    (s.ir.toNat + x.toNat ≥ Config.memSize ∧
      exec (.stRegs x) s = .next (s.haltedBy .memoryOutOfRange (encode (.stRegs x)))) := by
  rcases storeBytes_cases (encode (.stRegs x)) s.dataAddr (s.dumpBytes x) (State.advanceIndex x) s with ⟨h, e⟩ | ⟨h, e⟩
  · exact .inl ⟨inRange_block.mp (State.dumpBytes_length s x ▸ h), e⟩
  · exact .inr ⟨Nat.le_of_not_lt (mt inRange_block.mpr (Bool.eq_false_iff.mp (State.dumpBytes_length s x ▸ h))), e⟩

/-- LD_REGS. -/
theorem exec_ldRegs_cases (x : Nibble) (s : State) :
    (s.ir.toNat + x.toNat < Config.memSize ∧
      exec (.ldRegs x) s = .next (State.advanceIndex x
        (s.loadRegs ((List.range (regCount x)).map fun i => s.mem.read (s.dataAddr + i))))) ∨
    (s.ir.toNat + x.toNat ≥ Config.memSize ∧
      exec (.ldRegs x) s = .next (s.haltedBy .memoryOutOfRange (encode (.ldRegs x)))) := by
  rcases loadBytes_cases (encode (.ldRegs x)) s.dataAddr (regCount x)
      (fun bs t => State.advanceIndex x (t.loadRegs bs)) s with ⟨h, e⟩ | ⟨h, e⟩
  · exact .inl ⟨inRange_block.mp h, e⟩
  · exact .inr ⟨Nat.le_of_not_lt (mt inRange_block.mpr (Bool.eq_false_iff.mp h)), e⟩

/-- DRW. -/
theorem exec_drw_cases (x y n : Nibble) (s : State) :
    (SpriteInMemory s n ∧
      exec (.drw x y n) s =
        .next (drawSprite x y ((List.range n.toNat).map fun i => s.mem.read (s.dataAddr + i)) s)) ∨
    (¬ SpriteInMemory s n ∧ exec (.drw x y n) s = .next (s.haltedBy .memoryOutOfRange (encode (.drw x y n)))) := by
  rcases loadBytes_cases (encode (.drw x y n)) s.dataAddr n.toNat (drawSprite x y) s with ⟨h, e⟩ | ⟨h, e⟩
  · exact .inl ⟨inRange_sprite.mp h, e⟩
  · exact .inr ⟨mt inRange_sprite.mpr (Bool.eq_false_iff.mp h), e⟩

/-- SKP and SKNP. -/
theorem skipOnKey_cases (w : Word) (x : Nibble) (want : Bool) (s : State) :
    ((s.V x).toNat > 15 ∧ skipOnKey w x want s = .next (s.haltedBy .badKeyIndex w)) ∨
    ((s.V x).toNat ≤ 15 ∧ skipOnKey w x want s =
      .next (s.setPc (if s.keyPressed (s.V x).toNat = want then s.pc + 2#16 else s.pc))) := by
  rw [skipOnKey_eq]
  by_cases h : (s.V x).toNat > 15
  · exact .inl ⟨h, if_pos h⟩
  · exact .inr ⟨Nat.le_of_not_lt h, if_neg h⟩

end Sys2Proof.Machine
end

