-- ==== Sys2Proof/Laws/PerInstr.lean ====
section
/-! SUPPORT. Facts about every instruction as syntax, one lemma per constructor. -/

/-- The encoder's word lies in the instruction's row of the match and mask table (spec/30_encoding.md R64). -/
def Sys2Proof.Laws.TableRow.Statement (i : Sys2Proof.Instr) : Prop :=
  ∃ r ∈ Sys2Proof.opTable, r.mnemonic = Sys2Proof.mnemonic i ∧ Sys2Proof.encode i &&& r.mask = r.value

namespace Sys2Proof.Laws.TableRow

theorem cls : Statement .cls :=
  ⟨⟨"CLS", 0x00E0, 0xFFFF⟩, by decide, rfl, by decide⟩

theorem ret : Statement .ret :=
  ⟨⟨"RET", 0x00EE, 0xFFFF⟩, by decide, rfl, by decide⟩

theorem sys (nnn : Addr12) : Statement (.sys nnn) :=
  ⟨⟨"SYS", 0x0000, 0xF000⟩, by decide, rfl, (wordNNN_top _ nnn).trans (by decide)⟩

theorem jp (nnn : Addr12) : Statement (.jp nnn) :=
  ⟨⟨"JP", 0x1000, 0xF000⟩, by decide, rfl, (wordNNN_top _ nnn).trans (by decide)⟩

theorem call (nnn : Addr12) : Statement (.call nnn) :=
  ⟨⟨"CALL", 0x2000, 0xF000⟩, by decide, rfl, (wordNNN_top _ nnn).trans (by decide)⟩

theorem ldI (nnn : Addr12) : Statement (.ldI nnn) :=
  ⟨⟨"LD_I", 0xA000, 0xF000⟩, by decide, rfl, (wordNNN_top _ nnn).trans (by decide)⟩

theorem jpV0 (nnn : Addr12) : Statement (.jpV0 nnn) :=
  ⟨⟨"JP_V0", 0xB000, 0xF000⟩, by decide, rfl, (wordNNN_top _ nnn).trans (by decide)⟩

theorem seImm (x : Nibble) (kk : Byte) : Statement (.seImm x kk) :=
  ⟨⟨"SE_IMM", 0x3000, 0xF000⟩, by decide, rfl, (wordXKK_top _ x kk).trans (by decide)⟩

theorem sneImm (x : Nibble) (kk : Byte) : Statement (.sneImm x kk) :=
  ⟨⟨"SNE_IMM", 0x4000, 0xF000⟩, by decide, rfl, (wordXKK_top _ x kk).trans (by decide)⟩

theorem ldImm (x : Nibble) (kk : Byte) : Statement (.ldImm x kk) :=
  ⟨⟨"LD_IMM", 0x6000, 0xF000⟩, by decide, rfl, (wordXKK_top _ x kk).trans (by decide)⟩

theorem addImm (x : Nibble) (kk : Byte) : Statement (.addImm x kk) :=
  ⟨⟨"ADD_IMM", 0x7000, 0xF000⟩, by decide, rfl, (wordXKK_top _ x kk).trans (by decide)⟩

theorem rnd (x : Nibble) (kk : Byte) : Statement (.rnd x kk) :=
  ⟨⟨"RND", 0xC000, 0xF000⟩, by decide, rfl, (wordXKK_top _ x kk).trans (by decide)⟩

theorem seReg (x y : Nibble) : Statement (.seReg x y) :=
  ⟨⟨"SE_REG", 0x5000, 0xF00F⟩, by decide, rfl, (wordXYN_topLow _ x y _).trans (by decide)⟩

theorem ldReg (x y : Nibble) : Statement (.ldReg x y) :=
  ⟨⟨"LD_REG", 0x8000, 0xF00F⟩, by decide, rfl, (wordXYN_topLow _ x y _).trans (by decide)⟩

theorem orReg (x y : Nibble) : Statement (.orReg x y) :=
  ⟨⟨"OR", 0x8001, 0xF00F⟩, by decide, rfl, (wordXYN_topLow _ x y _).trans (by decide)⟩

theorem andReg (x y : Nibble) : Statement (.andReg x y) :=
  ⟨⟨"AND", 0x8002, 0xF00F⟩, by decide, rfl, (wordXYN_topLow _ x y _).trans (by decide)⟩

theorem xorReg (x y : Nibble) : Statement (.xorReg x y) :=
  ⟨⟨"XOR", 0x8003, 0xF00F⟩, by decide, rfl, (wordXYN_topLow _ x y _).trans (by decide)⟩

theorem addReg (x y : Nibble) : Statement (.addReg x y) :=
  ⟨⟨"ADD_REG", 0x8004, 0xF00F⟩, by decide, rfl, (wordXYN_topLow _ x y _).trans (by decide)⟩

theorem sub (x y : Nibble) : Statement (.sub x y) :=
  ⟨⟨"SUB", 0x8005, 0xF00F⟩, by decide, rfl, (wordXYN_topLow _ x y _).trans (by decide)⟩

theorem shr (x y : Nibble) : Statement (.shr x y) :=
  ⟨⟨"SHR", 0x8006, 0xF00F⟩, by decide, rfl, (wordXYN_topLow _ x y _).trans (by decide)⟩

theorem subn (x y : Nibble) : Statement (.subn x y) :=
  ⟨⟨"SUBN", 0x8007, 0xF00F⟩, by decide, rfl, (wordXYN_topLow _ x y _).trans (by decide)⟩

theorem shl (x y : Nibble) : Statement (.shl x y) :=
  ⟨⟨"SHL", 0x800E, 0xF00F⟩, by decide, rfl, (wordXYN_topLow _ x y _).trans (by decide)⟩

theorem sneReg (x y : Nibble) : Statement (.sneReg x y) :=
  ⟨⟨"SNE_REG", 0x9000, 0xF00F⟩, by decide, rfl, (wordXYN_topLow _ x y _).trans (by decide)⟩

theorem drw (x y n : Nibble) : Statement (.drw x y n) :=
  ⟨⟨"DRW", 0xD000, 0xF000⟩, by decide, rfl, (wordXYN_top _ x y n).trans (by decide)⟩

theorem skp (x : Nibble) : Statement (.skp x) :=
  ⟨⟨"SKP", 0xE09E, 0xF0FF⟩, by decide, rfl, (wordXKK_topLow _ x _).trans (by decide)⟩

theorem sknp (x : Nibble) : Statement (.sknp x) :=
  ⟨⟨"SKNP", 0xE0A1, 0xF0FF⟩, by decide, rfl, (wordXKK_topLow _ x _).trans (by decide)⟩

theorem ldVxDt (x : Nibble) : Statement (.ldVxDt x) :=
  ⟨⟨"LD_VX_DT", 0xF007, 0xF0FF⟩, by decide, rfl, (wordXKK_topLow _ x _).trans (by decide)⟩

theorem ldVxK (x : Nibble) : Statement (.ldVxK x) :=
  ⟨⟨"LD_VX_K", 0xF00A, 0xF0FF⟩, by decide, rfl, (wordXKK_topLow _ x _).trans (by decide)⟩

theorem ldDtVx (x : Nibble) : Statement (.ldDtVx x) :=
  ⟨⟨"LD_DT_VX", 0xF015, 0xF0FF⟩, by decide, rfl, (wordXKK_topLow _ x _).trans (by decide)⟩

theorem ldStVx (x : Nibble) : Statement (.ldStVx x) :=
  ⟨⟨"LD_ST_VX", 0xF018, 0xF0FF⟩, by decide, rfl, (wordXKK_topLow _ x _).trans (by decide)⟩

theorem addIVx (x : Nibble) : Statement (.addIVx x) :=
  ⟨⟨"ADD_I_VX", 0xF01E, 0xF0FF⟩, by decide, rfl, (wordXKK_topLow _ x _).trans (by decide)⟩

theorem ldFVx (x : Nibble) : Statement (.ldFVx x) :=
  ⟨⟨"LD_F_VX", 0xF029, 0xF0FF⟩, by decide, rfl, (wordXKK_topLow _ x _).trans (by decide)⟩

theorem ldBVx (x : Nibble) : Statement (.ldBVx x) :=
  ⟨⟨"LD_B_VX", 0xF033, 0xF0FF⟩, by decide, rfl, (wordXKK_topLow _ x _).trans (by decide)⟩

theorem stRegs (x : Nibble) : Statement (.stRegs x) :=
  ⟨⟨"ST_REGS", 0xF055, 0xF0FF⟩, by decide, rfl, (wordXKK_topLow _ x _).trans (by decide)⟩

theorem ldRegs (x : Nibble) : Statement (.ldRegs x) :=
  ⟨⟨"LD_REGS", 0xF065, 0xF0FF⟩, by decide, rfl, (wordXKK_topLow _ x _).trans (by decide)⟩

end Sys2Proof.Laws.TableRow
end

