-- ==== Sys2Proof/Laws/Step.lean ====
section
/-! SUPPORT. What a tick and a step do, by run state, by what is fetched and by what the host has scheduled
(spec/40_control.md R80, R81; 00_scope.md R3). -/

namespace Sys2Proof.Machine

/-! ## The tick -/

theorem tick_halted {s : State} {reason : HaltReason} (h : s.runState = .halted reason) (r : Byte) :
    tick r s = .next s := by simp [tick, h]

theorem tick_waiting {s : State} {xw : Nibble} (h : s.runState = .waitingForKey xw) (r : Byte) :
    tick r s = pollKey xw s := by simp [tick, h]

theorem tick_running {s : State} (h : s.runState = .running) (r : Byte) : tick r s = fetchAndExecute r s := by
  simp [tick, h]

/-- The fetch is out of range: the error names the fetch address and `pc` stays. -/
theorem fetchAndExecute_out {s : State} (h : fetchWord s = none) (r : Byte) :
    fetchAndExecute r s = .next ((s.offerRand r).haltedBy .memoryOutOfRange s.pc) := by
  simp [fetchAndExecute, h]

/-- The word fetched is an instruction: its execute part runs on the advanced state. -/
theorem fetchAndExecute_instr {s : State} {w : Word} {i : Instr} (h : fetchWord s = some w)
    (hd : decodeWord s.sysNoop w = .instr i) (r : Byte) :
    fetchAndExecute r s = exec i (s.offerRand r).advancePc := by
  simp [fetchAndExecute, h, hd]

/-- The word fetched is unknown. -/
theorem fetchAndExecute_unknown {s : State} {w w' : Word} (h : fetchWord s = some w)
    (hd : decodeWord s.sysNoop w = .unknown w') (r : Byte) :
    fetchAndExecute r s = .next ((s.offerRand r).advancePc.haltedBy .unknownOpcode w') := by
  simp [fetchAndExecute, h, hd]

/-- Everything a running tick can do. -/
theorem fetchAndExecute_cases (r : Byte) (s : State) :
    (fetchWord s = none ∧ fetchAndExecute r s = .next ((s.offerRand r).haltedBy .memoryOutOfRange s.pc)) ∨
    (∃ w w', fetchWord s = some w ∧ decodeWord s.sysNoop w = .unknown w' ∧
      fetchAndExecute r s = .next ((s.offerRand r).advancePc.haltedBy .unknownOpcode w')) ∨
    (∃ w i, fetchWord s = some w ∧ decodeWord s.sysNoop w = .instr i ∧
      fetchAndExecute r s = exec i (s.offerRand r).advancePc) := by
  cases hf : fetchWord s with
  | none => exact .inl ⟨rfl, fetchAndExecute_out hf r⟩
  | some w =>
    cases hd : decodeWord s.sysNoop w with
    | unknown w' => exact .inr (.inl ⟨w, w', rfl, hd, fetchAndExecute_unknown hf hd r⟩)
    | instr i => exact .inr (.inr ⟨w, i, rfl, hd, fetchAndExecute_instr hf hd r⟩)

/-- The fetch depends on `pc` and memory only. -/
theorem fetchWord_congr {s t : State} (hp : t.pc = s.pc) (hm : t.mem = s.mem) : fetchWord t = fetchWord s := by
  simp [fetchWord, hp, hm]

/-! ## The step -/

/-- With nothing scheduled the step is a tick with a free random byte. -/
theorem step_nil {s : State} (h : s.schedule = []) : step s = tick (Config.freeRandByte s.draws) s := by
  simp [step, h]

/-- With an operation scheduled the step is that operation, and the rest stays scheduled. -/
theorem step_cons {s : State} {op : HostOp} {ops : List HostOp} (h : s.schedule = op :: ops) :
    step s = runHostOp op { s with schedule := ops } := by
  simp [step, h]

/-! ## Sprites -/

/-- The cells DRW draws on are the cells its sprite covers. -/
theorem mem_sprite_iff_covers (s : State) (x y n : Nibble) (cx : Fin Config.displayW) (cy : Fin Config.displayH) :
    (cx, cy) ∈ (spritePixels ((List.range n.toNat).map fun i => s.mem.read (s.dataAddr + i)) (s.V x).toNat
      (s.V y).toNat).map wrapCell ↔ SpriteCovers s x y n cx cy := by
  simp only [List.mem_map, mem_spritePixels, SpriteCovers]
  constructor
  · rintro ⟨p, ⟨r, k, hr, hk, hb, rfl⟩, e⟩
    have hr' : r < n.toNat := by simpa using hr
    exact ⟨r, k, hr', hk, by simpa [hr', State.dataAddr] using hb, congrArg (fun c => c.1.val) e,
      congrArg (fun c => c.2.val) e⟩
  · rintro ⟨r, k, hr, hk, hb, e1, e2⟩
    exact ⟨_, ⟨r, k, by simpa using hr, hk, by simpa [hr, State.dataAddr] using hb, rfl⟩,
      Prod.ext (Fin.ext e1) (Fin.ext e2)⟩

/-- No two bits of a DRW's sprite fall on one cell (43_display.md R135 (d)). -/
theorem sprite_nodup (s : State) (x y n : Nibble) :
    ((spritePixels ((List.range n.toNat).map fun i => s.mem.read (s.dataAddr + i)) (s.V x).toNat
      (s.V y).toNat).map wrapCell).Nodup := by
  have := n.isLt
  exact spritePixels_nodup (by simp only [List.length_map, List.length_range, Config.displayH]; omega)

end Sys2Proof.Machine
end

