-- ==== Sys2Proof/Tests/Slice0.lean ====
section
/-! SUPPORT. Tests. Expected results come from the spec: words from the patterns of spec/30_encoding.md R64, single steps
from the vectors of 95_test_vectors.md (named T<table>.<row>; none of them is the output of this model). Then one witness
for every obligation that has hypotheses: a concrete state and operands that meet them all, at boundary values. -/

namespace Sys2Proof.Tests

open Sys2Proof.Machine

/-! ## Helpers -/

/-- The state of a next-state outcome. -/
def stateOf : Result → Option State
  | .next t => some t
  | .fault _ => none
  | .refused _ => none

/-- One tick on the word `w` placed at `pc`. -/
def run (s : State) (w : Nat) : Option State := stateOf (step (s.withFetchWord 16 w))

/-- The reset state with some registers set. -/
def regs (l : List (Nibble × Byte)) : State := l.foldl (fun s p => s.setV p.1 p.2) State.reset

/-- `s` with both quirk flags set. -/
def legacy (s : State) : State := { s with quirkShiftVy := true, quirkIndexAdvance := true }

/-- `s` with bytes placed in memory. -/
def withBytes (s : State) (a : Nat) (bs : List Byte) : State := s.setMem (s.mem.writeAll a bs)

/-- `s` with the next operation of the host scheduled. -/
def withOp (s : State) (op : HostOp) : State := { s with schedule := [op] }

/-- `s` halted by an unknown opcode. -/
def halted : State := State.reset.setRunState (.halted (.runtimeError .unknownOpcode 0x5121#16))

/-- The `n` bytes at `a`. -/
def bytesAt (a n : Nat) (t : State) : List Byte := (List.range n).map fun i => t.mem.read (a + i)

/-- The cells at the listed (column, row) of a grid. -/
def cellsAt (l : List (Nat × Nat)) (g : Grid) : List Bool := l.map fun c => Grid.cell g (wrapX c.1) (wrapY c.2)

/-- The reset state with the one pixel (0,0) lit. -/
def originLit : State :=
  State.reset.setDisplay { State.reset.display with
    fb := Grid.setCell (Grid.filled false) ⟨0, by decide⟩ ⟨0, by decide⟩ true }

/-! ## Well-formedness -/

/-- The operand 0x0E0 of SYS is CLS's word. -/
theorem test_wellFormed_refuses_sys_0E0 : wellFormed (.sys 0x0E0#12) = false := by decide
/-- The operand 0x0EE of SYS is RET's word. -/
theorem test_wellFormed_refuses_sys_0EE : wellFormed (.sys 0x0EE#12) = false := by decide
theorem test_wellFormed_sys : wellFormed (.sys 0x0E1#12) = true := by decide

/-! ## Decoding: every row of R64, its word written out from the pattern -/

theorem test_decode_family0 :
    decodeTableWord 16 0b0000000011100000 = some .cls ∧
    decodeTableWord 16 0b0000000011101110 = some .ret ∧
    decodeTableWord 16 0b0000000011100001 = some (.sys 0x0E1#12) := by decide

/-- Formats NNN and XKK. -/
theorem test_decode_immediates :
    decodeTableWord 16 0b0001101010111100 = some (.jp 0xABC#12) ∧
    decodeTableWord 16 0b0010101010111100 = some (.call 0xABC#12) ∧
    decodeTableWord 16 0b0011010100101010 = some (.seImm 0x5#4 0x2A#8) ∧
    decodeTableWord 16 0b0100010100101010 = some (.sneImm 0x5#4 0x2A#8) ∧
    decodeTableWord 16 0b0110111100101100 = some (.ldImm 0xF#4 0x2C#8) ∧
    decodeTableWord 16 0b0111000000000001 = some (.addImm 0x0#4 0x01#8) ∧
    decodeTableWord 16 0b1010111111111111 = some (.ldI 0xFFF#12) ∧
    decodeTableWord 16 0b1011001100000000 = some (.jpV0 0x300#12) ∧
    decodeTableWord 16 0b1100001100001111 = some (.rnd 0x3#4 0x0F#8) := by decide

/-- Format XYN: x is the second nibble, y the third. -/
theorem test_decode_register_pairs :
    decodeTableWord 16 0b0101000100100000 = some (.seReg 0x1#4 0x2#4) ∧
    decodeTableWord 16 0b1000000100100000 = some (.ldReg 0x1#4 0x2#4) ∧
    decodeTableWord 16 0b1000000100100001 = some (.orReg 0x1#4 0x2#4) ∧
    decodeTableWord 16 0b1000000100100010 = some (.andReg 0x1#4 0x2#4) ∧
    decodeTableWord 16 0b1000000100100011 = some (.xorReg 0x1#4 0x2#4) ∧
    decodeTableWord 16 0b1000000100100100 = some (.addReg 0x1#4 0x2#4) ∧
    decodeTableWord 16 0b1000000100100101 = some (.sub 0x1#4 0x2#4) ∧
    decodeTableWord 16 0b1000000100100110 = some (.shr 0x1#4 0x2#4) ∧
    decodeTableWord 16 0b1000000100100111 = some (.subn 0x1#4 0x2#4) ∧
    decodeTableWord 16 0b1000000100101110 = some (.shl 0x1#4 0x2#4) ∧
    decodeTableWord 16 0b1001000100100000 = some (.sneReg 0x1#4 0x2#4) ∧
    decodeTableWord 16 0b1101000100100011 = some (.drw 0x1#4 0x2#4 0x3#4) := by decide

/-- Format XSUB. -/
theorem test_decode_sub_opcodes :
    decodeTableWord 16 0b1110011110011110 = some (.skp 0x7#4) ∧
    decodeTableWord 16 0b1110011110100001 = some (.sknp 0x7#4) ∧
    decodeTableWord 16 0b1111011100000111 = some (.ldVxDt 0x7#4) ∧
    decodeTableWord 16 0b1111011100001010 = some (.ldVxK 0x7#4) ∧
    decodeTableWord 16 0b1111011100010101 = some (.ldDtVx 0x7#4) ∧
    decodeTableWord 16 0b1111011100011000 = some (.ldStVx 0x7#4) ∧
    decodeTableWord 16 0b1111011100011110 = some (.addIVx 0x7#4) ∧
    decodeTableWord 16 0b1111011100101001 = some (.ldFVx 0x7#4) ∧
    decodeTableWord 16 0b1111011100110011 = some (.ldBVx 0x7#4) ∧
    decodeTableWord 16 0b1111011101010101 = some (.stRegs 0x7#4) ∧
    decodeTableWord 16 0b1111011101100101 = some (.ldRegs 0x7#4) := by decide

/-- T8.4 to T8.13: unknown words. -/
theorem test_decode_unknown :
    [0x5121, 0x9123, 0x8128, 0x812F, 0xE19F, 0xF000, 0xF1FF, 0xF075].all
      (fun w => decodeTableWord 16 w == none) = true := by decide

/-- R67: with a SYS_NOOP that accepts nothing, 0x00E1 is unknown, and CLS is not affected. -/
theorem test_decode_sys_closed :
    decodeWord [] 0x00E1#16 = .unknown 0x00E1#16 ∧ decodeWord [] 0x00E0#16 = .instr .cls := by decide

/-! ## Control -/

/-- T1.17 -/
theorem test_sys : (run State.reset 0x0123).map (fun t => (t.pc, t.sp, t.runState)) =
    some (0x202#16, 0, .running) := by decide

/-- T1.8 -/
theorem test_ret_underflow : (run State.reset 0x00EE).map (fun t => (t.pc, t.sp, t.runState)) =
    some (0x202#16, 0, .halted (.runtimeError .stackUnderflow 0x00EE#16)) := by decide

/-- T1.9 -/
theorem test_ret : (run (State.reset.setStack (0x0206#16 :: List.replicate 15 0#16) 1) 0x00EE).map
    (fun t => (t.pc, t.sp, t.runState)) = some (0x206#16, 0, .running) := by decide

/-- T1.1 -/
theorem test_jp_self_halts : (run (State.reset.setPc 0x208#16) 0x1208).map (fun t => (t.pc, t.runState)) =
    some (0x208#16, .halted .explicitHalt) := by decide

/-- T1.3: the next word is no trap jump. -/
theorem test_jp_next : (run State.reset 0x1202).map (fun t => (t.pc, t.runState)) = some (0x202#16, .running) := by
  decide

/-- T1.10 -/
theorem test_call : (run State.reset 0x2ABC).map (fun t => (t.pc, t.sp, t.stack[0]?)) =
    some (0xABC#16, 1, some 0x202#16) := by decide

/-- T1.11 -/
theorem test_call_overflow :
    (run (State.reset.setStack (List.replicate 16 0#16) 16) 0x2ABC).map (fun t => (t.pc, t.sp, t.stack, t.runState)) =
      some (0x202#16, 16, List.replicate 16 0#16, .halted (.runtimeError .stackOverflow 0x2ABC#16)) := by decide

/-- T1.15 -/
theorem test_seImm : (run (regs [(0, 0x2A)]) 0x302A).map State.pc = some 0x204#16 ∧
    (run (regs [(0, 0x2A)]) 0x302B).map State.pc = some 0x202#16 := by decide

/-- T1.16 -/
theorem test_sneImm : (run (regs [(0, 0x2A)]) 0x402A).map State.pc = some 0x202#16 ∧
    (run (regs [(0, 0x2A)]) 0x402B).map State.pc = some 0x204#16 := by decide

/-- T1.12 -/
theorem test_seReg_itself : (run (regs [(3, 9)]) 0x5330).map State.pc = some 0x204#16 := by decide
/-- R88 with different values: no skip. -/
theorem test_seReg_differs : (run (regs [(3, 9)]) 0x5340).map State.pc = some 0x202#16 := by decide
/-- T1.13 -/
theorem test_sneReg_itself : (run (regs [(3, 9)]) 0x9330).map State.pc = some 0x202#16 := by decide
/-- R89 with different values: a skip. -/
theorem test_sneReg_differs : (run (regs [(3, 9)]) 0x9340).map State.pc = some 0x204#16 := by decide

/-- T1.6 -/
theorem test_jpV0_past_memory : (run (regs [(0, 0xFF)]) 0xBFFF).map State.pc = some 0x10FE#16 := by decide
/-- T1.7 -/
theorem test_jpV0 : (run (regs [(0, 0x04)]) 0xB300).map State.pc = some 0x304#16 := by decide

/-! ## Arithmetic and logic -/

/-- T2.16 -/
theorem test_ldImm : (run State.reset 0x6F2C).map (State.V · VF) = some 0x2C#8 := by decide
/-- T2.14 -/
theorem test_addImm_wraps : (run (regs [(0, 0xFF)]) 0x7001).map (fun t => (t.V 0, t.V VF)) = some (0x00#8, 0x00#8) := by
  decide
/-- T2.15 -/
theorem test_addImm_flag_register : (run (regs [(VF, 0xFE)]) 0x7F03).map (State.V · VF) = some 0x01#8 := by decide
/-- T2.20 -/
theorem test_ldReg : (run (regs [(VF, 1)]) 0x83F0).map (State.V · 3) = some 0x01#8 := by decide
/-- T2.17 -/
theorem test_or : (run (regs [(1, 0xF0), (2, 0x0F), (VF, 1)]) 0x8121).map (fun t => (t.V 1, t.V VF)) =
    some (0xFF#8, 0x01#8) := by decide
/-- T2.18 -/
theorem test_and : (run (regs [(1, 0xF3), (2, 0x3F)]) 0x8122).map (State.V · 1) = some 0x33#8 := by decide
/-- T2.19 -/
theorem test_xor : (run (regs [(1, 0xAA)]) 0x8113).map (State.V · 1) = some 0x00#8 := by decide
/-- T2.1 -/
theorem test_addReg_carry : (run (regs [(0, 0xFF), (1, 0x01)]) 0x8014).map (fun t => (t.V 0, t.V VF)) =
    some (0x00#8, 0x01#8) := by decide
/-- T2.5: the old `VF` is the addend. -/
theorem test_addReg_flag_source : (run (regs [(1, 0x01), (VF, 0xFF)]) 0x81F4).map (fun t => (t.V 1, t.V VF)) =
    some (0x00#8, 0x01#8) := by decide
/-- T2.7 -/
theorem test_sub_borrow : (run (regs [(0, 0), (1, 1)]) 0x8015).map (fun t => (t.V 0, t.V VF)) =
    some (0xFF#8, 0x00#8) := by decide
/-- T2.9: the flag is written last. -/
theorem test_sub_flag_destination : (run (regs [(VF, 5), (1, 3)]) 0x8F15).map (State.V · VF) = some 0x01#8 := by decide
/-- T2.11 -/
theorem test_subn_borrow : (run (regs [(0, 0x10), (1, 0x01)]) 0x8017).map (fun t => (t.V 0, t.V VF)) =
    some (0xF1#8, 0x00#8) := by decide
/-- T2.12 -/
theorem test_subn : (run (regs [(0, 0x01), (1, 0x10)]) 0x8017).map (fun t => (t.V 0, t.V VF)) =
    some (0x0F#8, 0x01#8) := by decide
/-- T3.1 -/
theorem test_shr_modern : (run (regs [(1, 0x05), (2, 0x08)]) 0x8126).map (fun t => (t.V 1, t.V VF, t.V 2)) =
    some (0x02#8, 0x01#8, 0x08#8) := by decide
/-- T3.12 -/
theorem test_shr_legacy_flag_source :
    (run (legacy (regs [(VF, 0x01), (1, 0xEE)])) 0x81F6).map (fun t => (t.V 1, t.V VF)) = some (0x00#8, 0x01#8) := by
  decide
/-- T3.5 -/
theorem test_shl_modern : (run (regs [(1, 0x81), (2, 0x40)]) 0x812E).map (fun t => (t.V 1, t.V VF)) =
    some (0x02#8, 0x01#8) := by decide
/-- T3.6 -/
theorem test_shl_legacy : (run (legacy (regs [(1, 0x81), (2, 0x40)])) 0x812E).map (fun t => (t.V 1, t.V VF)) =
    some (0x80#8, 0x00#8) := by decide
/-- T2.21: the tick is scheduled, with its random byte. -/
theorem test_rnd :
    (stateOf (step (withOp (State.reset.withFetchWord 16 0xC30F) (.tick 0xA7#8)))).map (State.V · 3) = some 0x07#8 := by
  decide

/-! ## Index register and memory -/

/-- T4.1 -/
theorem test_ldI : (run State.reset 0xAFFF).map State.ir = some 0x0FFF#16 := by decide
/-- T4.2 -/
theorem test_addIVx_wraps : (run ((regs [(0, 1)]).setIr 0xFFFF#16) 0xF01E).map (fun t => (t.ir, t.V VF)) =
    some (0x0000#16, 0x00#8) := by decide
/-- T4.3: no flag at the end of memory. -/
theorem test_addIVx_no_flag : (run ((regs [(0, 1)]).setIr 0x0FFF#16) 0xF01E).map (fun t => (t.ir, t.V VF)) =
    some (0x1000#16, 0x00#8) := by decide
/-- T4.4, T4.5 -/
theorem test_ldFVx : (run (regs [(0, 0x0A)]) 0xF029).map State.ir = some 0x0032#16 ∧
    (run (regs [(0, 0xFF)]) 0xF029).map State.ir = some 0x04FB#16 := by decide
/-- T4.7: the last three bytes of memory. -/
theorem test_ldBVx : (run ((regs [(0, 255)]).setIr 0xFFD#16) 0xF033).map (fun t => (bytesAt 0xFFD 3 t, t.ir)) =
    some ([0x02#8, 0x05#8, 0x05#8], 0xFFD#16) := by decide
/-- T4.8 -/
theorem test_ldBVx_past_end :
    (run ((regs [(0, 9)]).setIr 0xFFE#16) 0xF033).map (fun t => (bytesAt 0xFFE 2 t, t.pc, t.runState)) =
      some ([0x00#8, 0x00#8], 0x202#16, .halted (.runtimeError .memoryOutOfRange 0xF033#16)) := by decide
/-- T4.10 -/
theorem test_stRegs_legacy :
    (run (legacy ((regs [(0, 0x11), (1, 0x22), (2, 0x33)]).setIr 0x400#16)) 0xF155).map
      (fun t => (bytesAt 0x400 3 t, t.ir)) = some ([0x11#8, 0x22#8, 0x00#8], 0x402#16) := by decide
/-- T4.13: the sum does not wrap. -/
theorem test_stRegs_past_end : (run (State.reset.setIr 0xFFFF#16) 0xF155).map (fun t => (t.ir, t.runState)) =
    some (0xFFFF#16, .halted (.runtimeError .memoryOutOfRange 0xF155#16)) := by decide
/-- T4.14 -/
theorem test_ldRegs_modern :
    (run (withBytes ((regs [(3, 0x99)]).setIr 0x300#16) 0x300 [2, 0, 5]) 0xF265).map
      (fun t => ([t.V 0, t.V 1, t.V 2, t.V 3], t.ir)) = some ([0x02#8, 0x00#8, 0x05#8, 0x99#8], 0x300#16) := by decide
/-- T4.17, legacy: the last byte of memory. -/
theorem test_ldRegs_last_byte :
    (run (legacy (withBytes (State.reset.setIr 0xFFF#16) 0xFFF [0x5A])) 0xF065).map (fun t => (t.V 0, t.ir)) =
      some (0x5A#8, 0x1000#16) := by decide

/-! ## Display -/

/-- T5.1, two corners of the grid. -/
theorem test_cls : (run originLit 0x00E0).map
    (fun t => (cellsAt [(0, 0), (63, 31)] t.display.fb, cellsAt [(0, 0), (63, 31)] t.display.dirty,
      t.display.wasCleared)) = some ([false, false], [true, true], true) := by decide
/-- T5.2: both coordinates wrap, each on its own (the last two cells are the neighbours (61,31) and (63,0)). -/
theorem test_drw_wraps :
    (run (withBytes ((regs [(1, 62), (2, 31)]).setIr 0x210#16) 0x210 [0xC0, 0x81]) 0xD122).map
      (fun t => (cellsAt [(62, 31), (63, 31), (62, 0), (5, 0), (61, 31), (63, 0)] t.display.fb, t.V VF)) =
        some ([true, true, true, true, false, false], 0x00#8) := by decide
/-- T5.5: a collision erases and sets `VF`. -/
theorem test_drw_collision :
    (run (withBytes (originLit.setIr 0x300#16) 0x300 [0x80]) 0xD001).map
      (fun t => (cellsAt [(0, 0)] t.display.fb, cellsAt [(0, 0), (1, 0)] t.display.dirty, t.V VF)) =
        some ([false], [true, false], 0x01#8) := by decide

/-! ## Keys and timers -/

/-- T6.5 -/
theorem test_skp : (run { regs [(0, 15)] with keysPressed := 0x8000#16 } 0xE09E).map State.pc = some 0x204#16 := by
  decide
/-- T6.6 -/
theorem test_skp_bad_key : (run (regs [(0, 16)]) 0xE09E).map (fun t => (t.pc, t.runState)) =
    some (0x202#16, .halted (.runtimeError .badKeyIndex 0xE09E#16)) := by decide
/-- T6.3 -/
theorem test_sknp : (run { regs [(0, 5)] with keysPressed := 0x0020#16 } 0xE0A1).map State.pc = some 0x202#16 := by
  decide
/-- T6.7 -/
theorem test_sknp_bad_key : (run (regs [(0, 0xFF)]) 0xE0A1).map State.runState =
    some (.halted (.runtimeError .badKeyIndex 0xE0A1#16)) := by decide
/-- T6.8 -/
theorem test_ldVxK : (run State.reset 0xF30A).map (fun t => (t.runState, t.pc, t.V 3)) =
    some (.waitingForKey 0x3#4, 0x202#16, 0x00#8) := by decide
/-- T6.10: the waiting tick takes the lowest released key and clears the mask. -/
theorem test_waiting_tick :
    (stateOf (step { State.reset with runState := .waitingForKey 0x3#4, keysReleased := 0x0044#16 })).map
      (fun t => (t.V 3, t.keysReleased, t.runState, t.pc)) = some (0x02#8, 0x0000#16, .running, 0x200#16) := by decide
/-- T7.10 -/
theorem test_ldVxDt : (run (State.reset.setDt 0x1E#8) 0xF107).map (fun t => (t.V 1, t.dt)) =
    some (0x1E#8, 0x1E#8) := by decide
/-- T7.9 -/
theorem test_ldDtVx : (run (regs [(0, 0x3C)]) 0xF015).map (fun t => (t.dt, t.st)) = some (0x3C#8, 0x00#8) := by decide
/-- T7.11 -/
theorem test_ldStVx : (run (regs [(2, 5)]) 0xF218).map (fun t => (t.st, t.dt, t.soundActive)) =
    some (0x05#8, 0x00#8, true) := by decide

/-! ## The tick and the host's operations -/

/-- T1.4 -/
theorem test_fetch_past_end :
    (stateOf (step (State.reset.setPc 0x0FFF#16))).map (fun t => (t.pc, t.runState)) =
      some (0x0FFF#16, .halted (.runtimeError .memoryOutOfRange 0x0FFF#16)) := by decide
/-- T8.4 -/
theorem test_unknown_word : (run State.reset 0x5121).map (fun t => (t.pc, t.runState)) =
    some (0x202#16, .halted (.runtimeError .unknownOpcode 0x5121#16)) := by decide
/-- T7.6, T7.7 -/
theorem test_timer_decrement :
    (stateOf (step (withOp (State.reset.setDt 2#8) .timerDecrement))).map (fun t => (t.dt, t.st)) =
      some (0x01#8, 0x00#8) ∧
    (stateOf (step (withOp (State.reset.setSt 1#8) .timerDecrement))).map (fun t => (t.dt, t.st)) =
      some (0x00#8, 0x00#8) := by decide
/-- T7.5: a pending release is lost. -/
theorem test_set_keys :
    (stateOf (step (withOp { State.reset with keysPressed := 0x00F0#16, keysReleased := 0x0001#16 }
      (.setKeys 0x0002#16 0x0000#16)))).map (fun t => (t.keysPressed, t.keysReleased)) =
        some (0x0002#16, 0x0000#16) := by decide
/-- T5.11, two corners of the grid. -/
theorem test_reset_display_flags :
    (stateOf (step (withOp (State.reset.setDisplay State.reset.display.clear) .resetDisplayFlags))).map
      (fun t => (cellsAt [(0, 0), (63, 31)] t.display.dirty, t.display.wasCleared)) = some ([false, false], false) := by
  decide
/-- T9.1, its registers, memory and quirks. -/
theorem test_reset :
    (stateOf (step (withOp (legacy (withBytes ((halted.setV 0 7#8).setStack [0x206#16, 0x208#16, 0#16] 2) 0x300 [0x42]))
      .reset))).map (fun t => (t.V 0, t.pc, t.sp, t.runState, t.mem.read 0x300, t.quirkShiftVy)) =
        some (0x00#8, 0x200#16, 0, .running, 0x42#8, true) := by decide
/-- R54: glyph 0 starts memory; the program area is not part of the font. -/
theorem test_font : bytesAt 0 5 State.reset = [0xF0#8, 0x90#8, 0x90#8, 0x90#8, 0xF0#8] ∧
    State.reset.mem.read 0x50 = 0x00#8 := by decide
/-- R53: a write that would pass the end of memory has no step. -/
theorem test_mem_write_refused :
    (step (withOp State.reset (.memWrite 0xFFF [1, 2]))) = .refused .hostWriteOutOfRange := by rfl

/-! ## Witnesses

`witness_<Name>` meets all hypotheses of `Obligations.<Name>` together, one conjunct for each of its clauses, at the
boundary of the clause's range. -/

/-- The first word of the last word-sized slot of memory, 0xFFE, holds `hi lo`, and `pc` stands there. -/
def atEnd (hi lo : Byte) : State := withBytes (State.reset.setPc 0xFFE#16) 0xFFE [hi, lo]

/-- A full stack of 16 entries. -/
def full : State := State.reset.setStack (List.replicate 16 0x206#16) 16

/-- A state whose sprite of one row at (62,31) has bits set and whose area is unlit. -/
def sprite : State := withBytes ((regs [(1, 62), (2, 31)]).setIr 0xFFF#16) 0xFFF [0xFF]

theorem witness_DecodeOfEncodeIsTheInstruction :
    wellFormed (.sys 0x0E1#12) = true ∧
      (∀ nnn, Instr.sys 0x0E1#12 = .sys nnn → sysNoopHolds SysNoop.reference nnn = true) :=
  ⟨by decide, fun _ h => by cases h; decide⟩

theorem witness_EncodeOfTheDecodedInstructionIsTheWord :
    decodeWord SysNoop.reference 0x812E#16 = .instr (.shl 0x1#4 0x2#4) ∧
      decodeWord SysNoop.reference 0x812F#16 = .unknown 0x812F#16 := by decide

/-- An instruction, a SYS word, an unknown word without a row, and a SYS word that SYS_NOOP does not accept. -/
theorem witness_DecodeAgreesWithTheMatchAndMaskTable :
    decodeWord SysNoop.reference 0x00E0#16 = .instr .cls ∧
      decodeWord SysNoop.reference 0x00E1#16 = .instr (.sys 0x0E1#12) ∧
      (decodeWord SysNoop.reference 0x812F#16 = .unknown 0x812F#16 ∧ tableRow 0x812F#16 = none) ∧
      decodeWord [] 0x00E1#16 = .unknown 0x00E1#16 := by decide

/-- The last word of memory, for a tick outside a schedule and for a scheduled one. -/
theorem witness_StepRunsTheDecodedInstruction :
    (atEnd 0x60 0x07).runState = .running ∧ (atEnd 0x60 0x07).pc.toNat + 1 < Config.memSize ∧
      decodeBytes (atEnd 0x60 0x07).sysNoop ((atEnd 0x60 0x07).mem.read (atEnd 0x60 0x07).pc.toNat)
        ((atEnd 0x60 0x07).mem.read ((atEnd 0x60 0x07).pc.toNat + 1)) = .instr (.ldImm 0x0#4 0x07#8) ∧
      (atEnd 0x60 0x07).schedule = [] ∧
      (withOp (atEnd 0x60 0x07) (.tick 0xA7#8)).schedule = .tick 0xA7#8 :: [] := by decide

/-- `pc` = 0xFFF cannot be fetched from, 0xFFE can. -/
theorem witness_FetchPastTheEndAndUnknownWordsHalt :
    ((State.reset.setPc 0xFFF#16).runState = .running ∧ ¬ (State.reset.setPc 0xFFF#16).pc.toNat + 1 < Config.memSize) ∧
      ((atEnd 0x51 0x21).runState = .running ∧ (atEnd 0x51 0x21).pc.toNat + 1 < Config.memSize ∧
        decodeBytes (atEnd 0x51 0x21).sysNoop ((atEnd 0x51 0x21).mem.read (atEnd 0x51 0x21).pc.toNat)
          ((atEnd 0x51 0x21).mem.read ((atEnd 0x51 0x21).pc.toNat + 1)) = .unknown 0x5121#16) := by decide

theorem witness_HaltedTickChangesNothing :
    (State.reset.setRunState (.halted .explicitHalt)).runState = .halted .explicitHalt ∧
      halted.runState = .halted (.runtimeError .unknownOpcode 0x5121#16) := by decide

/-- No key released, and key 15 alone. -/
theorem witness_WaitingTickPollsTheReleasedKeys :
    ((State.reset.setRunState (.waitingForKey 0xF#4)).runState = .waitingForKey 0xF#4 ∧
        (State.reset.setRunState (.waitingForKey 0xF#4)).keysReleased = 0x0000#16) ∧
      (((State.reset.setRunState (.waitingForKey 0xF#4)).setKeysReleased 0x8000#16).runState = .waitingForKey 0xF#4 ∧
        ((State.reset.setRunState (.waitingForKey 0xF#4)).setKeysReleased 0x8000#16).keysReleased ≠ 0x0000#16) := by
  decide

/-- A full stack and an empty one. -/
theorem witness_ReturnPopsTheNewestEntry :
    (full.sp ≤ full.stackCapacity ∧ full.sp ≠ 0) ∧
      (State.reset.sp ≤ State.reset.stackCapacity ∧ State.reset.sp = 0) := by decide

/-- The word before and the word at the jump's own address, at the highest target. -/
theorem witness_JumpSetsPcAndSelfJumpHalts :
    (0xFFE#12).toNat ≠ ((State.reset.setPc 0x1001#16).pc - 2#16).toNat ∧
      (0xFFF#12).toNat = ((State.reset.setPc 0x1001#16).pc - 2#16).toNat := by decide

/-- One entry free, and none. -/
theorem witness_CallPushesTheReturnAddress :
    ((full.setStack full.stack 15).sp ≤ (full.setStack full.stack 15).stackCapacity ∧
        (full.setStack full.stack 15).sp ≠ (full.setStack full.stack 15).stackCapacity) ∧
      (full.sp ≤ full.stackCapacity ∧ full.sp = full.stackCapacity) := by decide

/-- A destination that is not `VF`; the same serves SubtractWithNotBorrow. -/
theorem witness_AddRegistersWithCarryOut : (0xE#4 : Nibble) ≠ VF := by decide

theorem witness_SubtractWithNotBorrow : (0xE#4 : Nibble) ≠ VF := by decide

/-- Both settings of the quirk flag. -/
theorem witness_ShiftsByOneWithTheBitShiftedOut :
    (0x05#8 = (if (regs [(1, 5), (2, 8)]).quirkShiftVy then (regs [(1, 5), (2, 8)]).V 2 else (regs [(1, 5), (2, 8)]).V 1) ∧
        (0x1#4 : Nibble) ≠ VF) ∧
      0x08#8 = (if (legacy (regs [(1, 5), (2, 8)])).quirkShiftVy then (legacy (regs [(1, 5), (2, 8)])).V 2
        else (legacy (regs [(1, 5), (2, 8)])).V 1) := by decide

/-- The last byte stored is the last byte of memory. -/
theorem witness_BcdStoresThreeDigits :
    Memory.wf (State.reset.setIr 0xFFD#16).mem = true ∧ (State.reset.setIr 0xFFD#16).ir.toNat + 2 < Config.memSize := by
  decide

/-- All sixteen registers, up to the last byte of memory; the registers at both ends of the dump. -/
theorem witness_RegisterDumpStoresV0ToVx :
    Memory.wf (State.reset.setIr 0xFF0#16).mem = true ∧
      (State.reset.setIr 0xFF0#16).ir.toNat + (0xF#4 : Nibble).toNat < Config.memSize ∧
      (0x0#4 : Nibble).toNat ≤ (0xF#4 : Nibble).toNat ∧ (0xF#4 : Nibble).toNat ≤ (0xF#4 : Nibble).toNat := by decide

/-- Up to the last byte of memory; the last register loaded and the first one kept. -/
theorem witness_RegisterLoadReadsV0ToVx :
    (State.reset.setIr 0xFF1#16).ir.toNat + (0xE#4 : Nibble).toNat < Config.memSize ∧
      (0xE#4 : Nibble).toNat ≤ (0xE#4 : Nibble).toNat ∧ (0xE#4 : Nibble).toNat < (0xF#4 : Nibble).toNat := by decide

/-- One byte past the end, and the highest `ir`. -/
theorem witness_BlockAccessPastTheEndRaises :
    (State.reset.setIr 0xFF1#16).ir.toNat + (0xF#4 : Nibble).toNat ≥ Config.memSize ∧
      (State.reset.setIr 0xFFE#16).ir.toNat + 2 ≥ Config.memSize ∧
      (State.reset.setIr 0xFFFF#16).ir.toNat + (0x0#4 : Nibble).toNat ≥ Config.memSize := by decide

theorem witness_BcdThenRegisterLoadGivesTheDigits :
    Memory.wf (State.reset.setIr 0xFFD#16).mem = true ∧ (State.reset.setIr 0xFFD#16).ir.toNat + 2 < Config.memSize := by
  decide

theorem witness_StoredWordIsFetchedNext :
    Memory.wf (State.reset.setIr 0xFFE#16).mem = true ∧ 1 ≤ (0x1#4 : Nibble).toNat ∧
      (State.reset.setIr 0xFFE#16).ir.toNat + (0x1#4 : Nibble).toNat < Config.memSize ∧
      ∃ t, exec (.stRegs 0x1#4) (State.reset.setIr 0xFFE#16) = .next t :=
  ⟨by decide, by decide, by decide, _, rfl⟩

/-- No row at the highest `ir`, one row at the last byte of memory; a covered cell, one that is not, and a lit one. -/
theorem witness_DrawTogglesExactlyTheSpriteCells :
    SpriteInMemory (State.reset.setIr 0xFFFF#16) 0x0#4 ∧ SpriteInMemory sprite 0x1#4 ∧
      SpriteCovers sprite 0x1#4 0x2#4 0x1#4 (wrapX 69) (wrapY 31) ∧
      ¬ SpriteCovers (State.reset.setIr 0xFFFF#16) 0x0#4 0x0#4 0x0#4 (wrapX 0) (wrapY 0) ∧
      (∃ cx cy, SpriteCovers (withBytes (originLit.setIr 0x300#16) 0x300 [0x80]) 0x0#4 0x0#4 0x1#4 cx cy ∧
        Grid.cell (withBytes (originLit.setIr 0x300#16) 0x300 [0x80]).display.fb cx cy = true) ∧
      ∀ cx cy, SpriteCovers sprite 0x1#4 0x2#4 0x1#4 cx cy → Grid.cell sprite.display.fb cx cy = false := by
  refine ⟨.inl rfl, .inr (by decide), ⟨0, 7, by decide, by decide, by decide, by decide, by decide⟩, ?_,
    ⟨wrapX 0, wrapY 0, ⟨0, 0, by decide, by decide, by decide, by decide, by decide⟩, by decide⟩, fun cx cy _ => ?_⟩
  · rintro ⟨r, k, h, -⟩
    exact absurd h (Nat.not_lt_zero r)
  · show Grid.cell (Grid.filled false) cx cy = false
    simp [Grid.cell, Grid.filled]

theorem witness_DrawPastTheEndRaises :
    (0x2#4 : Nibble).toNat > 0 ∧
      (State.reset.setIr 0xFFF#16).ir.toNat + (0x2#4 : Nibble).toNat - 1 ≥ Config.memSize := by decide

/-- A sprite with set bits on an unlit area, at coordinates that the flag does not overwrite. -/
theorem witness_DrawTwiceRestoresTheFramebuffer :
    SpriteInMemory sprite 0x1#4 ∧
      (∃ t, exec (.drw 0x1#4 0x2#4 0x1#4) sprite = .next t ∧ t.V 0x1#4 = sprite.V 0x1#4 ∧
        t.V 0x2#4 = sprite.V 0x2#4) ∧
      (∃ cx cy, SpriteCovers sprite 0x1#4 0x2#4 0x1#4 cx cy) ∧
      ∀ cx cy, SpriteCovers sprite 0x1#4 0x2#4 0x1#4 cx cy → Grid.cell sprite.display.fb cx cy = false := by
  refine ⟨.inr (by decide), ⟨_, rfl, by decide, by decide⟩,
    ⟨_, _, witness_DrawTogglesExactlyTheSpriteCells.2.2.1⟩,
    witness_DrawTogglesExactlyTheSpriteCells.2.2.2.2.2⟩

/-- The highest key number and the first value above it. -/
theorem witness_KeySkipsTestThePressedMask :
    ((regs [(0, 15)]).V 0).toNat ≤ 15 ∧ ((regs [(0, 16)]).V 0).toNat > 15 := by decide

/-- SYS meets every clause. -/
theorem witness_TimersChangeOnlyByTheTwoLoads :
    (∃ t, exec (.sys 0x123#12) State.reset = .next t) ∧ (∀ x, Instr.sys 0x123#12 ≠ .ldDtVx x) ∧
      ∀ x, Instr.sys 0x123#12 ≠ .ldStVx x := ⟨⟨_, rfl⟩, by simp, by simp⟩

/-- A return from a full stack and a call with one entry free. -/
theorem witness_StackMovesOnlyByCallAndReturn :
    ((∃ t, exec .ret full = .next t) ∧ ∀ nnn, Instr.ret ≠ .call nnn) ∧
      ((∃ t, exec (.call 0xFFF#12) (full.setStack full.stack 15) = .next t) ∧ Instr.call 0xFFF#12 ≠ .ret) :=
  ⟨⟨⟨_, rfl⟩, by simp⟩, ⟨_, rfl⟩, by simp⟩

theorem witness_MemoryIsWrittenOnlyByBcdAndDump :
    (∃ t, exec (.ldRegs 0xF#4) State.reset = .next t) ∧ (∀ x, Instr.ldRegs 0xF#4 ≠ .ldBVx x) ∧
      ∀ x, Instr.ldRegs 0xF#4 ≠ .stRegs x := ⟨⟨_, rfl⟩, by simp, by simp⟩

/-- An instruction that is neither, and a DRW for the second clause. -/
theorem witness_DisplayChangesOnlyByClearAndDraw :
    ((∃ t, exec (.ldRegs 0xF#4) State.reset = .next t) ∧ Instr.ldRegs 0xF#4 ≠ .cls ∧
        ∀ x y n, Instr.ldRegs 0xF#4 ≠ .drw x y n) ∧
      ((∃ t, exec (.drw 0x1#4 0x2#4 0x1#4) sprite = .next t) ∧ Instr.drw 0x1#4 0x2#4 0x1#4 ≠ .cls) :=
  ⟨⟨⟨_, rfl⟩, by simp, by simp⟩, ⟨_, rfl⟩, by simp⟩

/-- A CLS in a state whose cells are dirty. -/
theorem witness_NoInstructionClearsADirtyMarker :
    (∃ t, exec .cls (State.reset.setDisplay State.reset.display.clear) = .next t) ∧
      Grid.cell (State.reset.setDisplay State.reset.display.clear).display.dirty (wrapX 63) (wrapY 31) = true :=
  ⟨⟨_, rfl⟩, by decide⟩

/-- A register beside the destination, and an instruction that writes the flag. -/
theorem witness_RegistersChangeOnlyAsDestinationOrFlag :
    (∃ t, exec (.addReg 0x0#4 0x1#4) (regs [(0, 0xFF), (1, 0x01)]) = .next t ∧ t.runState = .running) ∧
      (regs [(0, 0xFF), (1, 0x01)]).runState = .running ∧
      (isDestination 0x1#4 (.addReg 0x0#4 0x1#4) = false ∧
        ¬ (0x1#4 = VF ∧ writesFlag (.addReg 0x0#4 0x1#4) = true)) ∧
      writesFlag (.addReg 0x0#4 0x1#4) = true := ⟨⟨_, rfl, by decide⟩, by decide, by decide, by decide⟩

theorem witness_InstructionsLeaveTheHostsInputs : ∃ t, exec (.skp 0x0#4) (regs [(0, 15)]) = .next t := ⟨_, rfl⟩

/-- An instruction that raises and one that does not. -/
theorem witness_InstructionsRaiseExactlyTheirCause :
    (full.sp ≤ full.stackCapacity ∧ full.runState = .running) ∧
      raisesIn full (.call 0x200#12) = some .stackOverflow ∧ raisesIn full .ret = none := by decide

theorem witness_OnlyWaitForKeyWaitsAndOnlySelfJumpHalts :
    State.reset.runState = .running ∧ ∃ t, exec (.ldVxK 0xF#4) State.reset = .next t := ⟨by decide, _, rfl⟩

/-- An error in the fetch and one in the execute part. -/
theorem witness_ErrorsArePrecise :
    ((State.reset.setPc 0xFFF#16).runState = .running ∧ ∃ t, tick 0x00#8 (State.reset.setPc 0xFFF#16) = .next t ∧
        t.runState = .halted (.runtimeError .memoryOutOfRange 0xFFF#16)) ∧
      ((atEnd 0x00 0xEE).runState = .running ∧ ∃ t, tick 0x00#8 (atEnd 0x00 0xEE) = .next t ∧
        t.runState = .halted (.runtimeError .stackUnderflow 0x00EE#16)) :=
  ⟨⟨by decide, _, rfl, by decide⟩, by decide, _, rfl, by decide⟩

/-- A step that leaves the halt and one that does not. -/
theorem witness_OnlyResetLeavesAHaltedState :
    (halted.runState = .halted (.runtimeError .unknownOpcode 0x5121#16) ∧ ∃ t, step halted = .next t) ∧
      (withOp halted .reset).runState = .halted (.runtimeError .unknownOpcode 0x5121#16) ∧
      ∃ t, step (withOp halted .reset) = .next t :=
  ⟨⟨by decide, _, rfl⟩, by decide, _, rfl⟩

/-- The invariant holds with every cell dirty and `was_cleared` set, on a full stack. -/
theorem inv_cleared : (full.setDisplay full.display.clear).Inv := by
  unfold State.Inv
  decide

theorem witness_EveryStepKeepsTheInvariant :
    (full.setDisplay full.display.clear).Inv ∧
      ∃ t, step (withOp (full.setDisplay full.display.clear) (.memWrite 0xFFF [0x01])) = .next t :=
  ⟨inv_cleared, _, rfl⟩

/-- A state outside a schedule, and one whose next operation writes the last byte of memory. -/
theorem witness_EveryStepAnswersANextState :
    ((full.setDisplay full.display.clear).Inv ∧
        ∀ op ∈ (full.setDisplay full.display.clear).schedule.head?, hostOpOk op = true) ∧
      (withOp (full.setDisplay full.display.clear) (.memWrite 0xFFF [0x01])).Inv ∧
      ∀ op ∈ (withOp (full.setDisplay full.display.clear) (.memWrite 0xFFF [0x01])).schedule.head?,
        hostOpOk op = true := ⟨⟨inv_cleared, by decide⟩, inv_cleared, by decide⟩

theorem witness_DisplayFlagsNeverInfluenceExecution :
    ∃ t, tick 0x00#8 (sprite.withFetchWord 16 0xD121) = .next t := ⟨_, rfl⟩

theorem witness_SoundTimerNeverInfluencesExecution :
    ∃ t, tick 0x00#8 (State.reset.withFetchWord 16 0xF018) = .next t := ⟨_, rfl⟩

/-- Sixteen calls on an empty stack of sixteen entries. -/
theorem witness_NestedCallsFillTheStackAndReturn :
    State.reset.sp + (List.replicate 16 0x200#12).length ≤ State.reset.stackCapacity ∧
      State.reset.sp + (List.replicate 16 0x200#12).length = State.reset.stackCapacity ∧
      List.replicate 16 0x200#12 ≠ [] := by decide

theorem witness_TimerDecrementSaturatesAtZero :
    (withOp (State.reset.setDt 255#8) .timerDecrement).schedule = .timerDecrement :: [] := by decide

theorem witness_SetKeysAndSetQuirksReplace :
    (withOp halted (.setKeys 0x0002#16 0x8000#16)).schedule = .setKeys 0x0002#16 0x8000#16 :: [] ∧
      (withOp halted (.setQuirks true true)).schedule = .setQuirks true true :: [] := by decide

theorem witness_ResetRestoresInitialValuesAndKeepsMemory :
    (withOp (legacy (withBytes full 0xFFF [0x42])) .reset).schedule = .reset :: [] := by decide

theorem witness_ResetDisplayFlagsAlwaysClears :
    (withOp (full.setDisplay full.display.clear) .resetDisplayFlags).Inv ∧
      (withOp (full.setDisplay full.display.clear) .resetDisplayFlags).schedule = .resetDisplayFlags :: [] :=
  ⟨inv_cleared, by decide⟩

/-- Up to the last byte, no byte past the end, and one byte past the end. -/
theorem witness_HostMemoryWriteLandsOrIsRefused :
    Memory.wf State.reset.mem = true ∧
      ((withOp State.reset (.memWrite 0xFFE [1, 2])).schedule = .memWrite 0xFFE [1, 2] :: [] ∧
        0xFFE + [1#8, 2#8].length ≤ Config.memSize) ∧
      (withOp State.reset (.memWrite 0x2000 [])).schedule = .memWrite 0x2000 [] :: [] ∧
      ((withOp State.reset (.memWrite 0xFFF [1, 2])).schedule = .memWrite 0xFFF [1, 2] :: [] ∧
        [1#8, 2#8] ≠ [] ∧ 0xFFF + [1#8, 2#8].length > Config.memSize) := by decide

end Sys2Proof.Tests
end

section
/-! The control transfers (spec/40_control.md R83, R85 to R90): what the execute part of each answers, as an equation in
the named updates of the state, and the statements of that family. -/

namespace Sys2Proof.Machine

/-! ## The call stack (R83, R85) -/

/-- The word RET reports (R83). -/
theorem encode_ret : encode .ret = 0x00EE#16 := by decide

theorem exec_ret_empty {s : State} (h : s.sp = 0) :
    exec .ret s = .next (s.haltedBy .stackUnderflow 0x00EE#16) :=
  encode_ret ▸ popToPc_empty h

theorem exec_ret_saved {s : State} (h0 : s.sp ≠ 0) (hcap : s.sp ≤ s.stackCapacity) :
    ∃ a, s.stack[s.sp - 1]? = some a ∧ exec .ret s = .next ((s.setStack s.stack (s.sp - 1)).setPc a) :=
  popToPc_inv h0 hcap

theorem exec_call_full {nnn : Addr12} {s : State} (h : s.sp = s.stackCapacity) :
    exec (.call nnn) s = .next (s.haltedBy .stackOverflow (encode (.call nnn))) :=
  pushAndJump_full h

theorem exec_call_room {nnn : Addr12} {s : State} (h : s.sp < s.stackCapacity) :
    exec (.call nnn) s = .next ((s.setStack (s.stack.set s.sp s.pc) (s.sp + 1)).setPc (addrImm nnn)) :=
  pushAndJump_room h

/-- Settles O11: below the capacity there is an entry to pop, and popping moves `sp` and `pc` only. -/
theorem returnPopsTheNewestEntry : Obligations.ReturnPopsTheNewestEntry := by
  intro s hcap
  refine ⟨fun h0 => ?_, exec_ret_empty⟩
  obtain ⟨a, ha, hexec⟩ := exec_ret_saved h0 hcap
  exact ⟨_, a, hexec, ha, rfl⟩

/-- Settles O13: with room the push replaces the entry at `sp`, which exists, and no other. -/
theorem callPushesTheReturnAddress : Obligations.CallPushesTheReturnAddress := by
  intro nnn s hcap
  refine ⟨fun hne => ?_, exec_call_full⟩
  have hroom : s.sp < s.stackCapacity := Nat.lt_of_le_of_ne hcap hne
  refine ⟨_, exec_call_room hroom, rfl, addrImm_toNat nnn, ?_, ?_, fun k hk => ?_⟩
  · exact List.getElem?_set_self hroom
  · exact List.length_set
  · exact List.getElem?_set_ne hk.symm

/-! ## The skips (R86 to R89) -/

/-- A skip on equality. -/
theorem skipIf_beq (a b : Byte) (s : State) :
    skipIf (a == b) s = .next (s.setPc (if a = b then s.pc + 2#16 else s.pc)) := by
  simp [skipIf_eq]

/-- A skip on difference: the branches change places. -/
theorem skipIf_bne (a b : Byte) (s : State) :
    skipIf (a != b) s = .next (s.setPc (if a = b then s.pc else s.pc + 2#16)) := by
  simp [skipIf_eq]

/-- Settles O14: the skips on equality are `skipIf_beq`, those on difference `skipIf_bne`. -/
theorem skipsMovePcByTwoWhenTheirTestHolds : Obligations.SkipsMovePcByTwoWhenTheirTestHolds :=
  fun x y kk s =>
    ⟨skipIf_beq (s.V x) kk s, skipIf_bne (s.V x) kk s, skipIf_beq (s.V x) (s.V y) s, skipIf_bne (s.V x) (s.V y) s⟩

/-! ## The jump with offset (R90) -/

/-- A register plus an address immediate is at most 0x10FE, so their sum does not wrap. -/
theorem regAsAddr_add_addrImm_toNat (s : State) (r : Nibble) (nnn : Addr12) :
    (s.regAsAddr r + addrImm nnn).toNat = (s.V r).toNat + nnn.toNat := by
  have hlt : (s.regAsAddr r).toNat + (addrImm nnn).toNat < 2 ^ 16 := by
    rw [State.regAsAddr_toNat, addrImm_toNat]
    omega
  rw [BitVec.toNat_add_of_lt hlt, State.regAsAddr_toNat, addrImm_toNat]

/-- Settles O15: the target is the sum that does not wrap. -/
theorem jumpWithOffsetAddsV0 : Obligations.JumpWithOffsetAddsV0 :=
  fun nnn s => ⟨_, rfl, rfl, regAsAddr_add_addrImm_toNat s 0x0#4 nnn⟩

end Sys2Proof.Machine
end

section
/-! Arithmetic and logic with one register written (spec/41_alu.md R100 to R105): what the execute part of each answers,
as one register write, and the statements of that family. -/

namespace Sys2Proof.Machine

section
variable (x y : Nibble) (kk : Byte) (s : State)

theorem exec_ldImm : exec (.ldImm x kk) s = .next (s.setV x kk) := rfl
theorem exec_addImm : exec (.addImm x kk) s = .next (s.setV x (s.V x + kk)) := rfl
theorem exec_ldReg : exec (.ldReg x y) s = .next (s.setV x (s.V y)) := rfl
theorem exec_orReg : exec (.orReg x y) s = .next (s.setV x (s.V x ||| s.V y)) := rfl
theorem exec_andReg : exec (.andReg x y) s = .next (s.setV x (s.V x &&& s.V y)) := rfl
theorem exec_xorReg : exec (.xorReg x y) s = .next (s.setV x (s.V x ^^^ s.V y)) := rfl

end

/-- An instruction whose execute part is one register write leaves its value in that register and changes nothing else. -/
theorem exec_onlyRegs_of_setV {i : Instr} {s : State} {x : Nibble} {b : Byte} (h : exec i s = .next (s.setV x b)) :
    ∃ t, exec i s = .next t ∧ t.V x = b ∧ OnlyRegs [x] s t :=
  ⟨_, h, State.setV_V_same s x b, onlyRegs_setV s x b⟩

/-- The same write, with the bits of the value given by `f`. -/
theorem exec_bits_of_setV {i : Instr} {s : State} {x : Nibble} {b : Byte} {f : Nat → Bool}
    (h : exec i s = .next (s.setV x b)) (hf : ∀ k, b.getLsbD k = f k) :
    ∃ t, exec i s = .next t ∧ (∀ k < 8, (t.V x).getLsbD k = f k) ∧ OnlyRegs [x] s t := by
  obtain ⟨t, hexec, hval, hframe⟩ := exec_onlyRegs_of_setV h
  exact ⟨t, hexec, fun k _ => hval ▸ hf k, hframe⟩

/-- Settles O16: each is one register write, and byte addition is addition modulo 256. -/
theorem loadAddImmediateAndCopy : Obligations.LoadAddImmediateAndCopy := by
  intro x y kk s
  refine ⟨exec_onlyRegs_of_setV (exec_ldImm x kk s), ?_, exec_onlyRegs_of_setV (exec_ldReg x y s)⟩
  obtain ⟨t, hexec, hsum, hframe⟩ := exec_onlyRegs_of_setV (exec_addImm x kk s)
  exact ⟨t, hexec, hsum ▸ BitVec.toNat_add (s.V x) kk, hframe⟩

/-- Settles O17: each is one register write of a bitwise operation, whose bits are that operation on the bits. -/
theorem bitwiseOperationsLeaveTheFlag : Obligations.BitwiseOperationsLeaveTheFlag :=
  fun x y s =>
    ⟨exec_bits_of_setV (exec_orReg x y s) fun _ => BitVec.getLsbD_or,
      exec_bits_of_setV (exec_andReg x y s) fun _ => BitVec.getLsbD_and,
      exec_bits_of_setV (exec_xorReg x y s) fun _ => BitVec.getLsbD_xor⟩

end Sys2Proof.Machine
end

section
/-! The display (spec/43_display.md R131, R134): what `clear()` leaves in each part of the device, what the execute part
of CLS answers, and the statement of that family. -/

namespace Sys2Proof.Machine

/-! ## `clear()` (R131) -/

@[simp] theorem Display.clear_wasCleared (d : Display) : d.clear.wasCleared = true := rfl

@[simp] theorem Display.cell_clear_fb (d : Display) (cx : Fin Config.displayW) (cy : Fin Config.displayH) :
    Grid.cell d.clear.fb cx cy = false :=
  Grid.cell_filled false cx cy

@[simp] theorem Display.cell_clear_dirty (d : Display) (cx : Fin Config.displayW) (cy : Fin Config.displayH) :
    Grid.cell d.clear.dirty cx cy = true :=
  Grid.cell_filled true cx cy

/-! ## CLS (R134) -/

theorem exec_cls (s : State) : exec .cls s = .next (s.setDisplay s.display.clear) := rfl

/-- Settles O29: CLS replaces the display alone, by the cleared one. -/
theorem clearDisplayMarksEveryCell : Obligations.ClearDisplayMarksEveryCell := by
  intro s
  refine ⟨_, exec_cls s, rfl, s.display.clear_wasCleared, fun cx cy => ?_⟩
  exact ⟨s.display.cell_clear_fb cx cy, s.display.cell_clear_dirty cx cy⟩

end Sys2Proof.Machine
end

section
/-! Keys and timers (spec/44_keys_timers.md R145 to R148): what the execute part of each answers, as one write of the
state, and the statements of that family. -/

namespace Sys2Proof.Machine

section
variable (x : Nibble) (s : State)

theorem exec_ldVxK : exec (.ldVxK x) s = .next (s.setRunState (.waitingForKey x)) := rfl
theorem exec_ldVxDt : exec (.ldVxDt x) s = .next (s.setV x s.dt) := rfl
theorem exec_ldDtVx : exec (.ldDtVx x) s = .next (s.setDt (s.V x)) := rfl
theorem exec_ldStVx : exec (.ldStVx x) s = .next (s.setSt (s.V x)) := rfl

end

/-- Settles O34: LD_VX_K is one write of the run state. -/
theorem waitForKeyOnlyEntersTheWait : Obligations.WaitForKeyOnlyEntersTheWait := exec_ldVxK

/-- Settles O35: the read of the delay timer is one register write, each load one write of a timer. -/
theorem timerInstructionsCopy : Obligations.TimerInstructionsCopy :=
  fun x s => ⟨exec_onlyRegs_of_setV (exec_ldVxDt x s), exec_ldDtVx x s, exec_ldStVx x s⟩

end Sys2Proof.Machine
end

section
/-! The decoder and the encoder (spec/30_encoding.md R61 to R67): which family a word's top nibble selects, that
decoding reads back every encoding and encoding every decoded word, the words that are unknown (R66), and the match
and mask table of R64 read through the fields of a word. -/

namespace Sys2Proof

/-! ## The families (R65) -/

section
variable {p : SysNoop} {w : Word}

theorem decodeWord_family0 (h : opField w = 0x0#4) : decodeWord p w = decodeFamily0 p w := by simp [decodeWord, h]
theorem decodeWord_family5 (h : opField w = 0x5#4) : decodeWord p w = decodeFamily5 w := by simp [decodeWord, h]
theorem decodeWord_family8 (h : opField w = 0x8#4) : decodeWord p w = decodeFamily8 w := by simp [decodeWord, h]
theorem decodeWord_family9 (h : opField w = 0x9#4) : decodeWord p w = decodeFamily9 w := by simp [decodeWord, h]
theorem decodeWord_familyE (h : opField w = 0xE#4) : decodeWord p w = decodeFamilyE w := by simp [decodeWord, h]
theorem decodeWord_familyF (h : opField w = 0xF#4) : decodeWord p w = decodeFamilyF w := by simp [decodeWord, h]

end

/-! ## Decoding an encoding -/

theorem sysOperandOk_iff {nnn : Addr12} : sysOperandOk nnn = true ↔ nnn ≠ 0x0E0#12 ∧ nnn ≠ 0x0EE#12 := by
  simp [sysOperandOk]

/-- A word with another `nnn` is another word. -/
theorem wordNNN_ne {op : Nibble} {nnn : Addr12} {w : Word} (h : nnn ≠ nnnField w) : wordNNN op nnn ≠ w :=
  fun e => h (by rw [← e, nnnField_wordNNN])

/-- Two words with the same top nibble differ in their `nnn`. -/
theorem nnnField_ne {w v : Word} (hop : opField w = opField v) (h : w ≠ v) : nnnField w ≠ nnnField v :=
  fun e => h (by rw [word_eq_NNN w, word_eq_NNN v, hop, e])

/-- A family 0 word other than CLS and RET is SYS where SYS_NOOP accepts its `nnn` (R67). -/
theorem decodeWord_sys {p : SysNoop} {nnn : Addr12} (hwf : sysOperandOk nnn = true) (hp : sysNoopHolds p nnn = true) :
    decodeWord p (wordNNN 0x0#4 nnn) = .instr (.sys nnn) := by
  obtain ⟨hE0, hEE⟩ := sysOperandOk_iff.mp hwf
  rw [decodeWord_family0 (opField_wordNNN _ _), decodeFamily0, if_neg (wordNNN_ne hE0), if_neg (wordNNN_ne hEE),
    nnnField_wordNNN, if_pos hp]

/-- Settles O2: format by format, the decoder's tests read the fields the encoder put into the word. -/
theorem decodeOfEncodeIsTheInstruction : Obligations.DecodeOfEncodeIsTheInstruction := by
  intro p i hwf hsys
  cases i with
  | cls | ret => rfl
  | sys nnn => exact decodeWord_sys hwf (hsys nnn rfl)
  | jp nnn | call nnn | ldI nnn | jpV0 nnn => simp [decodeWord, encode, opField_wordNNN, nnnField_wordNNN]
  | seImm x kk | sneImm x kk | ldImm x kk | addImm x kk | rnd x kk =>
    simp [decodeWord, encode, opField_wordXKK, xField_wordXKK, kkField_wordXKK]
  | drw x y n => simp [decodeWord, encode, opField_wordXYN, xField_wordXYN, yField_wordXYN, nField_wordXYN]
  | seReg x y =>
    rw [encode, decodeWord_family5 (opField_wordXYN ..)]
    simp [decodeFamily5, xField_wordXYN, yField_wordXYN, nField_wordXYN]
  | sneReg x y =>
    rw [encode, decodeWord_family9 (opField_wordXYN ..)]
    simp [decodeFamily9, xField_wordXYN, yField_wordXYN, nField_wordXYN]
  | ldReg x y | orReg x y | andReg x y | xorReg x y | addReg x y | sub x y | shr x y | subn x y | shl x y =>
    rw [encode, decodeWord_family8 (opField_wordXYN ..)]
    simp [decodeFamily8, xField_wordXYN, yField_wordXYN, nField_wordXYN]
  | skp x | sknp x =>
    rw [encode, decodeWord_familyE (opField_wordXKK ..)]
    simp [decodeFamilyE, xField_wordXKK, kkField_wordXKK]
  | ldVxDt x | ldVxK x | ldDtVx x | ldStVx x | addIVx x | ldFVx x | ldBVx x | stRegs x | ldRegs x =>
    rw [encode, decodeWord_familyF (opField_wordXKK ..)]
    simp [decodeFamilyF, xField_wordXKK, kkField_wordXKK]

/-- Settles O1: the words are fixed, so the decoder is evaluated on each. -/
theorem specWordsDecodeToTheirInstructions : Obligations.SpecWordsDecodeToTheirInstructions := by
  unfold Obligations.SpecWordsDecodeToTheirInstructions
  decide

/-! ## Encoding a decoded word -/

/-- What a word decodes to agrees with the word: an instruction is well formed and encodes to it, and an unknown word is
reported whole. -/
def Decoded.ReadsBackTo (w : Word) : Decoded → Prop
  | .instr i => encode i = w ∧ wellFormed i = true
  | .unknown w' => w' = w

section
variable {w : Word} {op : Nibble}

theorem wordNNN_of_op (h : (opField w).toNat = op.toNat) : wordNNN op (nnnField w) = w := by
  rw [← BitVec.eq_of_toNat_eq h, ← word_eq_NNN]

theorem wordXKK_of_op (h : (opField w).toNat = op.toNat) : wordXKK op (xField w) (kkField w) = w := by
  rw [← BitVec.eq_of_toNat_eq h, ← word_eq_XKK]

theorem wordXYN_of_op (h : (opField w).toNat = op.toNat) : wordXYN op (xField w) (yField w) (nField w) = w := by
  rw [← BitVec.eq_of_toNat_eq h, ← word_eq_XYN]

theorem wordXKK_of_fields {kk : Byte} (h : (opField w).toNat = op.toNat) (hkk : (kkField w).toNat = kk.toNat) :
    wordXKK op (xField w) kk = w := by
  rw [← BitVec.eq_of_toNat_eq hkk, wordXKK_of_op h]

theorem wordXYN_of_fields {n : Nibble} (h : (opField w).toNat = op.toNat) (hn : (nField w).toNat = n.toNat) :
    wordXYN op (xField w) (yField w) n = w := by
  rw [← BitVec.eq_of_toNat_eq hn, wordXYN_of_op h]

end

section
variable (p : SysNoop) {w : Word}

theorem decodeFamily0_readsBack (h : (opField w).toNat = 0x0) : (decodeFamily0 p w).ReadsBackTo w := by
  unfold decodeFamily0
  split
  · next hcls => exact ⟨hcls.symm, rfl⟩
  · next hcls =>
    split
    · next hret => exact ⟨hret.symm, rfl⟩
    · next hret =>
      have hw : wordNNN 0x0#4 (nnnField w) = w := wordNNN_of_op h
      have hop : opField w = 0x0#4 := BitVec.eq_of_toNat_eq h
      have hE0 : nnnField w ≠ 0x0E0#12 := nnnField_ne (v := 0x00E0#16) hop hcls
      have hEE : nnnField w ≠ 0x0EE#12 := nnnField_ne (v := 0x00EE#16) hop hret
      split
      · exact ⟨hw, sysOperandOk_iff.mpr ⟨hE0, hEE⟩⟩
      · exact rfl

theorem decodeFamily5_readsBack (h : (opField w).toNat = 0x5) : (decodeFamily5 w).ReadsBackTo w := by
  unfold decodeFamily5
  split
  case h_1 hn => exact ⟨wordXYN_of_fields h hn, rfl⟩
  case h_2 => exact rfl

theorem decodeFamily8_readsBack (h : (opField w).toNat = 0x8) : (decodeFamily8 w).ReadsBackTo w := by
  unfold decodeFamily8
  split
  case h_10 => exact rfl
  all_goals next hn => exact ⟨wordXYN_of_fields h hn, rfl⟩

theorem decodeFamily9_readsBack (h : (opField w).toNat = 0x9) : (decodeFamily9 w).ReadsBackTo w := by
  unfold decodeFamily9
  split
  case h_1 hn => exact ⟨wordXYN_of_fields h hn, rfl⟩
  case h_2 => exact rfl

theorem decodeFamilyE_readsBack (h : (opField w).toNat = 0xE) : (decodeFamilyE w).ReadsBackTo w := by
  unfold decodeFamilyE
  split
  case h_3 => exact rfl
  all_goals next hkk => exact ⟨wordXKK_of_fields h hkk, rfl⟩

theorem decodeFamilyF_readsBack (h : (opField w).toNat = 0xF) : (decodeFamilyF w).ReadsBackTo w := by
  unfold decodeFamilyF
  split
  case h_10 => exact rfl
  all_goals next hkk => exact ⟨wordXKK_of_fields h hkk, rfl⟩

/-- Every word reads back: the single-variant families keep all their fields as operands, the others are the lemmas
above. -/
theorem decodeWord_readsBack (w : Word) : (decodeWord p w).ReadsBackTo w := by
  unfold decodeWord
  split
  case h_1 h => exact decodeFamily0_readsBack p h
  case h_6 h => exact decodeFamily5_readsBack h
  case h_9 h => exact decodeFamily8_readsBack h
  case h_10 h => exact decodeFamily9_readsBack h
  case h_15 h => exact decodeFamilyE_readsBack h
  case h_16 =>
    have hlt := (opField w).isLt
    simp only [imp_false] at *
    exact decodeFamilyF_readsBack (by omega)
  case h_2 h | h_3 h | h_11 h | h_12 h => exact ⟨wordNNN_of_op h, rfl⟩
  case h_14 h => exact ⟨wordXYN_of_op h, rfl⟩
  case h_4 h | h_5 h | h_7 h | h_8 h | h_13 h => exact ⟨wordXKK_of_op h, rfl⟩

end

/-- Settles O3: both halves are `decodeWord_readsBack`. -/
theorem encodeOfTheDecodedInstructionIsTheWord : Obligations.EncodeOfTheDecodedInstructionIsTheWord := by
  intro p w
  have h := decodeWord_readsBack p w
  constructor
  · intro i hi
    rwa [hi] at h
  · intro w' hw'
    rwa [hw'] at h

/-! ## The unknown words (R66) -/

section
variable {p : SysNoop} {w : Word}

theorem decodeFamily0_unknown_iff :
    decodeFamily0 p w = .unknown w ↔ w ≠ 0x00E0#16 ∧ w ≠ 0x00EE#16 ∧ sysNoopHolds p (nnnField w) = false := by
  unfold decodeFamily0
  split
  · simp [*]
  · split
    · simp [*]
    · split <;> simp [*]

theorem decodeFamily5_unknown_iff : decodeFamily5 w = .unknown w ↔ nField w ≠ 0x0#4 := by
  unfold decodeFamily5
  split <;> simp_all [← BitVec.toNat_inj]

theorem decodeFamily8_unknown_iff :
    decodeFamily8 w = .unknown w ↔ nField w ∈ [0x8#4, 0x9#4, 0xA#4, 0xB#4, 0xC#4, 0xD#4, 0xF#4] := by
  have hcompl : ∀ n : Nibble, n ∈ [0x8#4, 0x9#4, 0xA#4, 0xB#4, 0xC#4, 0xD#4, 0xF#4] ↔
      n ∉ [0x0#4, 0x1#4, 0x2#4, 0x3#4, 0x4#4, 0x5#4, 0x6#4, 0x7#4, 0xE#4] := by decide
  rw [hcompl]
  unfold decodeFamily8
  split <;> simp_all [← BitVec.toNat_inj]

theorem decodeFamily9_unknown_iff : decodeFamily9 w = .unknown w ↔ nField w ≠ 0x0#4 := by
  unfold decodeFamily9
  split <;> simp_all [← BitVec.toNat_inj]

theorem decodeFamilyE_unknown_iff : decodeFamilyE w = .unknown w ↔ kkField w ∉ [0x9E#8, 0xA1#8] := by
  unfold decodeFamilyE
  split <;> simp_all [← BitVec.toNat_inj]

theorem decodeFamilyF_unknown_iff :
    decodeFamilyF w = .unknown w ↔
      kkField w ∉ [0x07#8, 0x0A#8, 0x15#8, 0x18#8, 0x1E#8, 0x29#8, 0x33#8, 0x55#8, 0x65#8] := by
  unfold decodeFamilyF
  split <;> simp_all [← BitVec.toNat_inj]

end

/-- An unknown word fails the last test of a multi-variant family; the other families have no such word. -/
theorem decodeWord_unknown_iff {p : SysNoop} {w : Word} :
    decodeWord p w = .unknown w ↔
      (opField w = 0x0#4 ∧ decodeFamily0 p w = .unknown w) ∨ (opField w = 0x5#4 ∧ decodeFamily5 w = .unknown w) ∨
      (opField w = 0x8#4 ∧ decodeFamily8 w = .unknown w) ∨ (opField w = 0x9#4 ∧ decodeFamily9 w = .unknown w) ∨
      (opField w = 0xE#4 ∧ decodeFamilyE w = .unknown w) ∨ (opField w = 0xF#4 ∧ decodeFamilyF w = .unknown w) := by
  have hlt := (opField w).isLt
  unfold decodeWord
  split <;> simp_all [← BitVec.toNat_inj]
  intro _
  omega

/-- Settles O5: the words that fail the last test, family by family. -/
theorem unknownWordsAreExactlyThoseListed : Obligations.UnknownWordsAreExactlyThoseListed := by
  intro p w
  rw [decodeWord_unknown_iff, decodeFamily0_unknown_iff, decodeFamily5_unknown_iff, decodeFamily8_unknown_iff,
    decodeFamily9_unknown_iff, decodeFamilyE_unknown_iff, decodeFamilyF_unknown_iff]

/-! ## The match and mask table (R64) -/

section
variable (w v : Word)

/-- The masks of R64 keep the fields that are fixed in a pattern: a masked word is the pattern when those agree. -/
@[simp] theorem and_top_eq_iff (hv : v &&& 0xF000#16 = v) : w &&& 0xF000#16 = v ↔ opField w = v.extractLsb' 12 4 := by
  have h := word_eq_NNN
  constructor
  · rintro rfl
    rw [h w, wordNNN_top]
    exact (opField_wordNNN _ _).trans (opField_wordNNN _ _).symm
  · intro e
    rw [← hv, h w, h v, wordNNN_top, wordNNN_top, e, opField]

@[simp] theorem and_full_eq_iff :
    w &&& 0xFFFF#16 = v ↔ opField w = v.extractLsb' 12 4 ∧ nnnField w = v.extractLsb' 0 12 := by
  have hfull : w &&& 0xFFFF#16 = w := BitVec.and_allOnes
  rw [hfull]
  constructor
  · rintro rfl
    exact ⟨rfl, rfl⟩
  · rintro ⟨e, e'⟩
    rw [word_eq_NNN w, word_eq_NNN v, e, e', opField, nnnField]

@[simp] theorem and_topN_eq_iff (hv : v &&& 0xF00F#16 = v) :
    w &&& 0xF00F#16 = v ↔ opField w = v.extractLsb' 12 4 ∧ nField w = v.extractLsb' 0 4 := by
  have h := word_eq_XYN
  constructor
  · rintro rfl
    rw [h w, wordXYN_topLow]
    exact ⟨(opField_wordXYN ..).trans (opField_wordXYN ..).symm, (nField_wordXYN ..).trans (nField_wordXYN ..).symm⟩
  · rintro ⟨e, e'⟩
    rw [← hv, h w, h v, wordXYN_topLow, wordXYN_topLow, e, e', opField, nField]

@[simp] theorem and_topKK_eq_iff (hv : v &&& 0xF0FF#16 = v) :
    w &&& 0xF0FF#16 = v ↔ opField w = v.extractLsb' 12 4 ∧ kkField w = v.extractLsb' 0 8 := by
  have h := word_eq_XKK
  constructor
  · rintro rfl
    rw [h w, wordXKK_topLow]
    exact ⟨(opField_wordXKK ..).trans (opField_wordXKK ..).symm, (kkField_wordXKK ..).trans (kkField_wordXKK ..).symm⟩
  · rintro ⟨e, e'⟩
    rw [← hv, h w, h v, wordXKK_topLow, wordXKK_topLow, e, e', opField, kkField]

end

/-- The first row that matches an encoding is the instruction's own: every fixed field of a row before it differs. -/
theorem tableRow_encode {i : Instr} (hwf : wellFormed i = true) :
    (tableRow (encode i)).map OpRow.mnemonic = some (mnemonic i) := by
  cases i with
  | cls | ret => decide
  | sys nnn =>
    obtain ⟨hE0, hEE⟩ := sysOperandOk_iff.mp hwf
    simp [tableRow, opTable, encode, mnemonic, opField_wordNNN, nnnField_wordNNN, hE0, hEE]
  | jp nnn | call nnn | ldI nnn | jpV0 nnn =>
    simp [tableRow, opTable, encode, mnemonic, opField_wordNNN]
  | seImm x kk | sneImm x kk | ldImm x kk | addImm x kk | rnd x kk =>
    simp [tableRow, opTable, encode, mnemonic, opField_wordXKK]
  | drw x y n =>
    simp [tableRow, opTable, encode, mnemonic, opField_wordXYN]
  | seReg x y | sneReg x y | ldReg x y | orReg x y | andReg x y | xorReg x y | addReg x y | sub x y | shr x y
  | subn x y | shl x y =>
    simp [tableRow, opTable, encode, mnemonic, opField_wordXYN, nField_wordXYN]
  | skp x | sknp x | ldVxDt x | ldVxK x | ldDtVx x | ldStVx x | addIVx x | ldFVx x | ldBVx x | stRegs x
  | ldRegs x =>
    simp [tableRow, opTable, encode, mnemonic, opField_wordXKK, kkField_wordXKK]

/-- An unknown word of a multi-variant family matches no row; one of family 0 matches the row SYS. -/
theorem tableRow_of_unknown {p : SysNoop} {w : Word} (h : decodeWord p w = .unknown w) :
    tableRow w = none ∨ ((tableRow w).map OpRow.mnemonic = some "SYS" ∧ sysNoopHolds p (nnnField w) = false) := by
  rcases (unknownWordsAreExactlyThoseListed p w).mp h with
    ⟨hop, hcls, hret, hp⟩ | ⟨hop, hn⟩ | ⟨hop, hn⟩ | ⟨hop, hn⟩ | ⟨hop, hkk⟩ | ⟨hop, hkk⟩
  · right
    have hE0 : nnnField w ≠ 0x0E0#12 := nnnField_ne (v := 0x00E0#16) hop hcls
    have hEE : nnnField w ≠ 0x0EE#12 := nnnField_ne (v := 0x00EE#16) hop hret
    simp [tableRow, opTable, hop, hE0, hEE, hp]
  · left; simp [tableRow, opTable, hop, hn]
  · left
    simp only [List.mem_cons, List.not_mem_nil, or_false] at hn
    rcases hn with hn | hn | hn | hn | hn | hn | hn <;> simp [tableRow, opTable, hop, hn]
  · left; simp [tableRow, opTable, hop, hn]
  · left
    simp only [List.mem_cons, List.not_mem_nil, or_false, not_or] at hkk
    simp [tableRow, opTable, hop, hkk]
  · left
    simp only [List.mem_cons, List.not_mem_nil, or_false, not_or] at hkk
    simp [tableRow, opTable, hop, hkk]

/-- A word decodes to SYS only where SYS_NOOP accepts its `nnn`. -/
theorem sysNoopHolds_of_decodeWord {p : SysNoop} {w : Word} {nnn : Addr12} (h : decodeWord p w = .instr (.sys nnn)) :
    sysNoopHolds p (nnnField w) = true := by
  have hw : wordNNN 0x0#4 nnn = w := ((encodeOfTheDecodedInstructionIsTheWord p w).1 _ h).1
  rw [decodeWord_family0 (by rw [← hw, opField_wordNNN]), decodeFamily0] at h
  split at h
  · cases h
  · split at h
    · cases h
    · split at h
      · next hp => exact hp
      · cases h

/-- Settles O4: an instruction's word is its encoding, whose row is known, and the unknown words are those listed. -/
theorem decodeAgreesWithTheMatchAndMaskTable : Obligations.DecodeAgreesWithTheMatchAndMaskTable := by
  intro p w
  obtain ⟨hinstr, hunknown⟩ := encodeOfTheDecodedInstructionIsTheWord p w
  refine ⟨fun i hi => ⟨?_, ?_⟩, fun w' hw' => ?_⟩
  · obtain ⟨hw, hwf⟩ := hinstr i hi
    exact hw ▸ tableRow_encode hwf
  · rintro nnn rfl
    exact sysNoopHolds_of_decodeWord hi
  · exact tableRow_of_unknown (hunknown w' hw' ▸ hw')

end Sys2Proof
end

section
/-! The invariant (spec/10_state.md R14, 20_memory.md R40, 43_display.md R133) and totality: what an instruction that
raises no error can write, said once for all 35 of them, and from it that every step keeps the invariant and that every
step from a state with it answers a next state. -/

namespace Sys2Proof.Machine

/-! ## What an instruction can do -/

/-- The instructions that write `pc` and nothing else (40_control.md R84, R86 to R90; 44_keys_timers.md R143, R144). -/
def branches : Instr → Bool
  | .jp _ | .jpV0 _ | .seImm _ _ | .sneImm _ _ | .seReg _ _ | .sneReg _ _ | .skp _ | .sknp _ => true
  | _ => false

/-- The instructions that write `ir` and nothing else (42_index_memory.md R120 to R122). -/
def loadsIndex : Instr → Bool
  | .ldI _ | .addIVx _ | .ldFVx _ => true
  | _ => false

/-- The next states of an instruction that raises no error, by what it writes. Where several instructions write the same
part of the state, the value written is left open. -/
inductive Effect (s : State) : Instr → State → Prop
  | sys (nnn : Addr12) : Effect s (.sys nnn) s
  | cls : Effect s .cls (s.setDisplay s.display.clear)
  | ret (a : Word) : Effect s .ret ((s.setStack s.stack (s.sp - 1)).setPc a)
  | call (nnn : Addr12) (hroom : s.sp < s.stackCapacity) :
      Effect s (.call nnn) ((s.setStack (s.stack.set s.sp s.pc) (s.sp + 1)).setPc (addrImm nnn))
  | selfJump (nnn : Addr12) (hself : nnn.toNat = s.instrAddr.toNat) :
      Effect s (.jp nnn) ((s.setPc s.instrAddr).setRunState (.halted .explicitHalt))
  | branch {i : Instr} (a : Word) (hi : branches i = true)
      (hjp : ∀ nnn, i = .jp nnn → nnn.toNat ≠ s.instrAddr.toNat) : Effect s i (s.setPc a)
  | register {i : Instr} (x : Nibble) (b : Byte) (hx : isDestination x i = true) (hi : writesFlag i = false) :
      Effect s i (s.setV x b)
  | flag {i : Instr} (x : Nibble) (b : Byte) (c : Bool) (hx : isDestination x i = true) (hi : writesFlag i = true) :
      Effect s i ((s.setV x b).setV VF (flagByte c))
  | index {i : Instr} (a : Word) (hi : loadsIndex i = true) : Effect s i (s.setIr a)
  | bcd (x : Nibble) (hr : s.ir.toNat + 2 < Config.memSize) :
      Effect s (.ldBVx x) (s.setMem (s.mem.writeAll s.dataAddr (bcdDigits (s.V x))))
  | dump (x : Nibble) (a : Word) (hr : s.ir.toNat + x.toNat < Config.memSize) :
      Effect s (.stRegs x) ((s.setMem (s.mem.writeAll s.dataAddr (s.dumpBytes x))).setIr a)
  | load (x : Nibble) (a : Word) :
      Effect s (.ldRegs x) ((s.loadRegs ((List.range (regCount x)).map fun i => s.mem.read (s.dataAddr + i))).setIr a)
  | draw (x y n : Nibble) (rows : List Byte) : Effect s (.drw x y n) (drawSprite x y rows s)
  | wait (x : Nibble) : Effect s (.ldVxK x) (s.setRunState (.waitingForKey x))
  | delayTimer (x : Nibble) : Effect s (.ldDtVx x) (s.setDt (s.V x))
  | soundTimer (x : Nibble) : Effect s (.ldStVx x) (s.setSt (s.V x))

/-- Everything the execute part of an instruction can do: it raises the error of its row of R152 and only halts, it
completes, or (CALL and RET with a depth above the capacity) the model stops. -/
theorem exec_cases (i : Instr) (s : State) :
    (∃ c, raisesIn s i = some c ∧ exec i s = .next (s.haltedBy c (encode i))) ∨
    (raisesIn s i = none ∧ ∃ t, exec i s = .next t ∧ Effect s i t) ∨
    (s.stackCapacity < s.sp ∧ exec i s = .fault .stackEntryAbsent) := by
  cases i with
  | cls => exact .inr (.inl ⟨rfl, _, rfl, .cls⟩)
  | sys nnn => exact .inr (.inl ⟨rfl, _, rfl, .sys nnn⟩)
  | ret =>
    rcases exec_ret_cases s with ⟨h0, e⟩ | ⟨a, h0, -, e⟩ | h
    · exact .inl ⟨_, if_pos h0, e⟩
    · exact .inr (.inl ⟨if_neg h0, _, e, .ret a⟩)
    · exact .inr (.inr h)
  | call nnn =>
    rcases exec_call_cases nnn s with ⟨h, e⟩ | ⟨h, e⟩ | h
    · exact .inl ⟨_, if_pos h, e⟩
    · exact .inr (.inl ⟨if_neg (Nat.ne_of_lt h), _, e, .call nnn h⟩)
    · exact .inr (.inr h)
  | jp nnn =>
    rcases exec_jp_cases nnn s with ⟨h, e⟩ | ⟨h, e⟩
    · exact .inr (.inl ⟨rfl, _, e, .selfJump nnn h⟩)
    · exact .inr (.inl ⟨rfl, _, e, .branch _ rfl fun _ heq => by cases heq; exact h⟩)
  | jpV0 nnn => exact .inr (.inl ⟨rfl, _, rfl, .branch _ rfl nofun⟩)
  | seImm x kk | sneImm x kk | seReg x y | sneReg x y =>
    exact .inr (.inl ⟨rfl, _, skipIf_eq _ s, .branch _ rfl nofun⟩)
  | skp x | sknp x =>
    rcases skipOnKey_cases _ x _ s with ⟨h, e⟩ | ⟨h, e⟩
    · exact .inl ⟨_, if_pos h, e⟩
    · exact .inr (.inl ⟨if_neg (Nat.not_lt.mpr h), _, e, .branch _ rfl nofun⟩)
  | ldImm x kk | addImm x kk | ldReg x y | orReg x y | andReg x y | xorReg x y | rnd x kk | ldVxDt x =>
    exact .inr (.inl ⟨rfl, _, rfl, .register x _ (beq_self_eq_true x) rfl⟩)
  | addReg x y | sub x y | shr x y | subn x y | shl x y =>
    exact .inr (.inl ⟨rfl, _, rfl, .flag x _ _ (beq_self_eq_true x) rfl⟩)
  | ldI nnn | addIVx x | ldFVx x => exact .inr (.inl ⟨rfl, _, rfl, .index _ rfl⟩)
  | ldBVx x =>
    rcases exec_ldBVx_cases x s with ⟨h, e⟩ | ⟨h, e⟩
    · exact .inr (.inl ⟨if_neg (Nat.not_le.mpr h), _, e, .bcd x h⟩)
    · exact .inl ⟨_, if_pos h, e⟩
  | stRegs x =>
    rcases exec_stRegs_cases x s with ⟨h, e⟩ | ⟨h, e⟩
    · exact .inr (.inl ⟨if_neg (Nat.not_le.mpr h), _, e, State.advanceIndex_eq _ x ▸ .dump x _ h⟩)
    · exact .inl ⟨_, if_pos h, e⟩
  | ldRegs x =>
    rcases exec_ldRegs_cases x s with ⟨h, e⟩ | ⟨h, e⟩
    · exact .inr (.inl ⟨if_neg (Nat.not_le.mpr h), _, e, State.advanceIndex_eq _ x ▸ .load x _⟩)
    · exact .inl ⟨_, if_pos h, e⟩
  | drw x y n =>
    have hpast : ¬ SpriteInMemory s n ↔ n.toNat > 0 ∧ s.ir.toNat + n.toNat - 1 ≥ Config.memSize := by
      unfold SpriteInMemory
      omega
    rcases exec_drw_cases x y n s with ⟨h, e⟩ | ⟨h, e⟩
    · exact .inr (.inl ⟨if_neg fun hp => hpast.mpr hp h, _, e, .draw x y n _⟩)
    · exact .inl ⟨_, if_pos (hpast.mp h), e⟩
  | ldVxK x => exact .inr (.inl ⟨rfl, _, rfl, .wait x⟩)
  | ldDtVx x => exact .inr (.inl ⟨rfl, _, rfl, .delayTimer x⟩)
  | ldStVx x => exact .inr (.inl ⟨rfl, _, rfl, .soundTimer x⟩)

/-- A next state of the execute part is the halt of R152 or an effect. -/
theorem exec_next_cases {i : Instr} {s t : State} (h : exec i s = .next t) :
    (∃ c, raisesIn s i = some c ∧ t = s.haltedBy c (encode i)) ∨ (raisesIn s i = none ∧ Effect s i t) := by
  rcases exec_cases i s with ⟨c, hc, e⟩ | ⟨hc, u, e, hu⟩ | ⟨-, e⟩
  · exact .inl ⟨c, hc, Host.Outcome.next.inj (h.symm.trans e)⟩
  · exact .inr ⟨hc, Host.Outcome.next.inj (e.symm.trans h) ▸ hu⟩
  · cases h.symm.trans e

/-- Within the stack's capacity the execute part answers a next state. -/
theorem exec_total {s : State} (i : Instr) (hsp : s.sp ≤ s.stackCapacity) : ∃ t, exec i s = .next t := by
  rcases exec_cases i s with ⟨_, -, e⟩ | ⟨-, t, e, -⟩ | ⟨h, -⟩
  · exact ⟨_, e⟩
  · exact ⟨t, e⟩
  · exact absurd hsp (Nat.not_le.mpr h)

/-- Everything a tick can do: nothing in a halted state or with no key released, take a released key, halt on the fetch
or on an unknown word, or execute an instruction. -/
theorem tick_cases (r : Byte) (s : State) :
    (s.runState ≠ .running ∧ tick r s = .next s) ∨
    (∃ xw k, s.runState = .waitingForKey xw ∧
      tick r s = .next (((s.setKeysReleased 0x0000#16).setV xw (BitVec.ofNat 8 k)).setRunState .running)) ∨
    (s.runState = .running ∧ tick r s = .next ((s.offerRand r).haltedBy .memoryOutOfRange s.pc)) ∨
    (∃ w, s.runState = .running ∧ tick r s = .next ((s.offerRand r).advancePc.haltedBy .unknownOpcode w)) ∨
    (∃ i, s.runState = .running ∧ tick r s = exec i (s.offerRand r).advancePc) := by
  cases hrun : s.runState with
  | halted reason => exact .inl ⟨nofun, tick_halted hrun r⟩
  | waitingForKey xw =>
    rw [tick_waiting hrun]
    by_cases hk : s.keysReleased = 0x0000#16
    · exact .inl ⟨nofun, pollKey_none hk⟩
    · obtain ⟨k, -, -, -, e⟩ := pollKey_some (xw := xw) hk
      exact .inr (.inl ⟨xw, k, rfl, e⟩)
  | running =>
    rw [tick_running hrun]
    rcases fetchAndExecute_cases r s with ⟨-, e⟩ | ⟨-, w, -, -, e⟩ | ⟨-, i, -, -, e⟩
    · exact .inr (.inr (.inl ⟨rfl, e⟩))
    · exact .inr (.inr (.inr (.inl ⟨w, rfl, e⟩)))
    · exact .inr (.inr (.inr (.inr ⟨i, rfl, e⟩)))

/-! ## The invariant is kept -/

/-- Drawing clears no marker, so some cell stays dirty. -/
theorem Display.anyUpdate_drawPixels {d : Display} (ps : List (Nat × Nat)) (h : d.anyUpdate = true) :
    (Display.drawPixels ps d).2.anyUpdate = true := by
  obtain ⟨cx, cy, hc⟩ := (Grid.any_iff _).mp h
  exact (Grid.any_iff _).mpr ⟨cx, cy, by rw [Display.drawPixels_dirty, hc, Bool.or_true]⟩

/-- A completing instruction keeps the invariant: the memory it writes is in range, its push has room, and only CLS sets
`was_cleared`. -/
theorem Effect.inv {i : Instr} {s t : State} (he : Effect s i t) (hinv : s.Inv) : t.Inv := by
  have ⟨hmem, hcap, hsp, hdisplay⟩ := hinv
  cases he with
  | sys | selfJump | branch | register | flag | index | load | wait | delayTimer | soundTimer => exact hinv
  | cls => exact ⟨hmem, hcap, hsp, fun _ => s.display.anyUpdate_clear⟩
  | ret => exact ⟨hmem, hcap, (Nat.sub_le _ _).trans hsp, hdisplay⟩
  | call nnn hroom =>
    have hlen : (s.stack.set s.sp s.pc).length = s.stackCapacity := List.length_set
    exact ⟨hmem, hlen.ge.trans' hcap, hlen.ge.trans' hroom, hdisplay⟩
  | bcd x hr => exact ⟨Memory.writeAll_wf hmem hr, hcap, hsp, hdisplay⟩
  | dump x a hr =>
    have hrange : s.dataAddr + (s.dumpBytes x).length ≤ Config.memSize := State.dumpBytes_length s x ▸ hr
    exact ⟨Memory.writeAll_wf hmem hrange, hcap, hsp, hdisplay⟩
  | draw x y n rows =>
    refine ⟨hmem, hcap, hsp, fun hw => Display.anyUpdate_drawPixels _ (hdisplay ?_)⟩
    rwa [drawSprite_display, Display.drawPixels_wasCleared] at hw

theorem exec_inv {i : Instr} {s t : State} (hinv : s.Inv) (h : exec i s = .next t) : t.Inv := by
  rcases exec_next_cases h with ⟨c, -, rfl⟩ | ⟨-, he⟩
  · exact hinv
  · exact he.inv hinv

theorem tick_inv {r : Byte} {s t : State} (hinv : s.Inv) (h : tick r s = .next t) : t.Inv := by
  rcases tick_cases r s with ⟨-, e⟩ | ⟨xw, k, -, e⟩ | ⟨-, e⟩ | ⟨w, -, e⟩ | ⟨i, -, e⟩ <;> rw [e] at h
  case inr.inr.inr.inr => exact exec_inv (s := (s.offerRand r).advancePc) hinv h
  all_goals
    cases h
    exact hinv

/-- `reset_display_flags()` leaves `was_cleared` set only while some cell is dirty. -/
theorem Display.resetFlags_wasCleared {d : Display} (h : d.wasCleared = true → d.anyUpdate = true) :
    d.resetFlags.wasCleared = true → d.resetFlags.anyUpdate = true := by
  unfold Display.resetFlags
  split
  · exact nofun
  · exact h

theorem runHostOp_inv {op : HostOp} {s t : State} (hinv : s.Inv) (h : runHostOp op s = .next t) : t.Inv := by
  have ⟨hmem, hcap, hsp, hdisplay⟩ := hinv
  cases op with
  | tick r => exact tick_inv hinv h
  | timerDecrement | setKeys p r | setQuirks v a =>
    cases h
    exact hinv
  | reset =>
    cases h
    exact ⟨hmem, hcap, Nat.zero_le _, nofun⟩
  | resetDisplayFlags =>
    cases h
    exact ⟨hmem, hcap, hsp, Display.resetFlags_wasCleared hdisplay⟩
  | memWrite addr bytes =>
    rw [runHostOp, memWrite] at h
    split at h
    · next m hm =>
      cases h
      exact ⟨Memory.writeBytes?_wf hmem hm, hcap, hsp, hdisplay⟩
    · cases h

/-- Settles O47: the step is a tick or a host operation on the same state with a shorter schedule, and the invariant
does not speak of the schedule. -/
theorem everyStepKeepsTheInvariant : Obligations.EveryStepKeepsTheInvariant := by
  intro s t hinv h
  cases hs : s.schedule with
  | nil =>
    rw [step_nil hs] at h
    exact tick_inv hinv h
  | cons op ops =>
    rw [step_cons hs] at h
    exact runHostOp_inv (s := { s with schedule := ops }) hinv h

/-- Settles O48: nothing is listed in memory, the stack is empty and `was_cleared` is clear. -/
theorem invariantHoldsAtReset : Obligations.InvariantHoldsAtReset :=
  ⟨Memory.wf_nil, by decide, Nat.zero_le _, nofun⟩

/-! ## Totality -/

theorem tick_total {s : State} (r : Byte) (hsp : s.sp ≤ s.stackCapacity) : ∃ t, tick r s = .next t := by
  rcases tick_cases r s with ⟨-, e⟩ | ⟨xw, k, -, e⟩ | ⟨-, e⟩ | ⟨w, -, e⟩ | ⟨i, -, e⟩
  case inr.inr.inr.inr => exact e ▸ exec_total i hsp
  all_goals exact ⟨_, e⟩

theorem runHostOp_total {op : HostOp} {s : State} (hok : hostOpOk op = true) (hsp : s.sp ≤ s.stackCapacity) :
    ∃ t, runHostOp op s = .next t := by
  cases op with
  | tick r => exact tick_total r hsp
  | timerDecrement | setKeys p r | setQuirks v a | reset | resetDisplayFlags => exact ⟨_, rfl⟩
  | memWrite addr bytes => exact ⟨_, by rw [runHostOp, memWrite, Memory.writeBytes?_of_inRange hok]⟩

/-- Settles O49: the invariant's bound on the depth rules out the one fault, the premise the one refusal. -/
theorem everyStepAnswersANextState : Obligations.EveryStepAnswersANextState := by
  rintro s ⟨-, -, hsp, -⟩ hok
  cases hs : s.schedule with
  | nil => exact step_nil hs ▸ tick_total _ hsp
  | cons op ops => exact step_cons hs ▸ runHostOp_total (hok op (by simp [hs])) hsp

end Sys2Proof.Machine
end

section
/-! The tick (spec/40_control.md R80, R81, 44_keys_timers.md R149): the statements about the fetch, the halted tick
and the waiting tick. -/

namespace Sys2Proof.Machine

/-! ## The running tick (R81) -/

/-- A running machine whose two bytes decode to an instruction executes it on the advanced state. -/
theorem tick_instr {s : State} {i : Instr} (hrun : s.runState = .running) (hpc : s.pc.toNat + 1 < Config.memSize)
    (hi : decodeBytes s.sysNoop (s.mem.read s.pc.toNat) (s.mem.read (s.pc.toNat + 1)) = .instr i) (r : Byte) :
    tick r s = exec i (s.offerRand r).advancePc := by
  rw [tick_running hrun, fetchAndExecute_instr (fetchWord_of_lt hpc) hi]

/-- Settles O6: either way the step is the tick of a machine that differs in its schedule only. -/
theorem stepRunsTheDecodedInstruction : Obligations.StepRunsTheDecodedInstruction := by
  intro s i hrun hpc hi
  refine ⟨fun hs => ?_, fun r ops hs => ?_⟩
  · rw [step_nil hs, tick_instr hrun hpc hi]
    rfl
  · rw [step_cons hs]
    exact tick_instr (s := { s with schedule := ops }) hrun hpc hi r

/-- Settles O7: the two ways a running tick halts before it executes anything. -/
theorem fetchPastTheEndAndUnknownWordsHalt : Obligations.FetchPastTheEndAndUnknownWordsHalt := by
  intro r s hrun
  rw [tick_running hrun]
  refine ⟨fun hpc => ?_, fun w hpc hw => ?_⟩
  · exact fetchAndExecute_out (fetchWord_of_ge hpc) r
  · exact fetchAndExecute_unknown (fetchWord_of_lt hpc) hw r

/-! ## The other two run states (R80, R149) -/

/-- The status is told by the run state the tick leaves. -/
theorem tickStatus_of_tick {r : Byte} {s t : State} (h : tick r s = .next t) :
    tickStatus r s = some t.runState.status := by
  simp [tickStatus, h]

/-- Settles O8: the state stays, and the status is that of its run state. -/
theorem haltedTickChangesNothing : Obligations.HaltedTickChangesNothing := by
  intro r s
  refine ⟨fun h => ?_, fun c info h => ?_⟩
  · exact ⟨tick_halted h r, by rw [tickStatus_of_tick (tick_halted h r), h]; rfl⟩
  · exact ⟨tick_halted h r, by rw [tickStatus_of_tick (tick_halted h r), h]; rfl⟩

/-- Settles O9: the two outcomes of polling, each left in a run state of status Ok. -/
theorem waitingTickPollsTheReleasedKeys : Obligations.WaitingTickPollsTheReleasedKeys := by
  intro r xw s hwait
  have htick := tick_waiting hwait r
  by_cases hk : s.keysReleased = 0x0000#16
  · rw [pollKey_none hk] at htick
    refine ⟨?_, fun _ => htick, fun h => absurd hk h⟩
    rw [tickStatus_of_tick htick, hwait]
    rfl
  · obtain ⟨k, hk16, hset, hlow, hpoll⟩ := pollKey_some (xw := xw) hk
    rw [hpoll] at htick
    refine ⟨tickStatus_of_tick htick, fun h => absurd h hk, fun _ => ?_⟩
    refine ⟨k, _, htick, hk16, hset, hlow, rfl, ?_, fun q hq => ?_⟩
    · rw [State.setRunState_V, State.setV_V_same, BitVec.toNat_ofNat]
      omega
    · rw [State.setRunState_V, State.setV_V_ne _ _ hq, State.setKeysReleased_V]

end Sys2Proof.Machine
end

section
/-! Rules about every instruction (spec/10_state.md R10 to R22, 60_exceptions.md R151 to R162): each is read off the
list of what an instruction can do, `exec_next_cases`. -/

namespace Sys2Proof.Machine

/-! ## Timers, stack, memory and display -/

/-- Settles O36: of the effects only the two timer loads write a timer. -/
theorem timersChangeOnlyByTheTwoLoads : Obligations.TimersChangeOnlyByTheTwoLoads := by
  intro i s t h
  rcases exec_next_cases h with ⟨c, -, rfl⟩ | ⟨-, he⟩
  · exact ⟨fun _ => rfl, fun _ => rfl⟩
  · cases he with
    | delayTimer x => exact ⟨fun hi => absurd rfl (hi x), fun _ => rfl⟩
    | soundTimer x => exact ⟨fun _ => rfl, fun hi => absurd rfl (hi x)⟩
    | _ => exact ⟨fun _ => rfl, fun _ => rfl⟩

/-- Settles O37: CALL replaces one entry, so the capacity stays. -/
theorem stackMovesOnlyByCallAndReturn : Obligations.StackMovesOnlyByCallAndReturn := by
  intro i s t h
  rcases exec_next_cases h with ⟨c, -, rfl⟩ | ⟨-, he⟩
  · exact ⟨rfl, fun _ => ⟨rfl, le_rfl⟩, fun _ => le_rfl⟩
  · cases he with
    | call nnn => exact ⟨List.length_set, fun hi => absurd rfl (hi nnn), fun _ => Nat.le_succ _⟩
    | ret a => exact ⟨rfl, fun _ => ⟨rfl, Nat.sub_le _ _⟩, fun hi => absurd rfl hi⟩
    | _ => exact ⟨rfl, fun _ => ⟨rfl, le_rfl⟩, fun _ => le_rfl⟩

/-- Settles O38: of the effects only the two stores write memory. -/
theorem memoryIsWrittenOnlyByBcdAndDump : Obligations.MemoryIsWrittenOnlyByBcdAndDump := by
  intro i s t h hbcd hdump a
  rcases exec_next_cases h with ⟨c, -, rfl⟩ | ⟨-, he⟩
  · rfl
  · cases he with
    | bcd x => exact absurd rfl (hbcd x)
    | dump x => exact absurd rfl (hdump x)
    | _ => rfl

/-- Settles O39: drawing leaves `was_cleared`. -/
theorem displayChangesOnlyByClearAndDraw : Obligations.DisplayChangesOnlyByClearAndDraw := by
  intro i s t h
  rcases exec_next_cases h with ⟨c, -, rfl⟩ | ⟨-, he⟩
  · exact ⟨fun _ _ => rfl, fun _ => rfl⟩
  · cases he with
    | cls => exact ⟨fun hi => absurd rfl hi, fun hi => absurd rfl hi⟩
    | draw x y n rows => exact ⟨fun _ hi => absurd rfl (hi x y n), fun _ => Display.drawPixels_wasCleared _ _⟩
    | _ => exact ⟨fun _ _ => rfl, fun _ => rfl⟩

/-- Settles O40: clearing and drawing only set markers. -/
theorem noInstructionClearsADirtyMarker : Obligations.NoInstructionClearsADirtyMarker := by
  intro i s t cx cy h hd
  rcases exec_next_cases h with ⟨c, -, rfl⟩ | ⟨-, he⟩
  · exact hd
  · cases he with
    | cls => exact s.display.cell_clear_dirty cx cy
    | draw x y n rows => rw [drawSprite_display, Display.drawPixels_dirty, hd, Bool.or_true]
    | _ => exact hd

/-- Settles O42: no effect writes one of these fields. -/
theorem instructionsLeaveTheHostsInputs : Obligations.InstructionsLeaveTheHostsInputs := by
  intro i s t h
  rcases exec_next_cases h with ⟨c, -, rfl⟩ | ⟨-, he⟩
  · exact ⟨rfl, rfl, rfl, rfl, rfl, rfl, rfl, rfl⟩
  · cases he <;> exact ⟨rfl, rfl, rfl, rfl, rfl, rfl, rfl, rfl⟩

/-! ## General registers (10_state.md R10, R11) -/

theorem writesFlag_of_branches {i : Instr} (h : branches i = true) : writesFlag i = false := by
  cases i <;> simp_all [branches, writesFlag]

theorem writesFlag_of_loadsIndex {i : Instr} (h : loadsIndex i = true) : writesFlag i = false := by
  cases i <;> simp_all [loadsIndex, writesFlag]

/-- A register that is no destination is another register than a destination. -/
theorem ne_of_isDestination {i : Instr} {r x : Nibble} (hr : isDestination r i = false)
    (hx : isDestination x i = true) : r ≠ x := by
  rintro rfl
  exact absurd (hr.symm.trans hx) Bool.false_ne_true

/-- An effect writes general registers only as destinations or as the flag. -/
theorem Effect.V_eq {i : Instr} {s t : State} (he : Effect s i t) {r : Nibble} (hr : isDestination r i = false)
    (hflag : ¬ (r = VF ∧ writesFlag i = true)) : t.V r = s.V r := by
  cases he with
  | register x b hx => exact State.setV_V_ne _ _ (ne_of_isDestination hr hx)
  | flag x b c hx hi =>
    rw [State.setV_V_ne _ _ fun e => hflag ⟨e, hi⟩, State.setV_V_ne _ _ (ne_of_isDestination hr hx)]
  | load x a =>
    have hlt : x.toNat < r.toNat := by simpa [isDestination, BitVec.le_def] using hr
    rw [State.setIr_V, State.loadRegs_V, if_neg]
    rw [List.length_map, List.length_range, regCount]
    omega
  | draw x y n rows => exact drawSprite_V_ne _ _ _ _ fun e => hflag ⟨e, rfl⟩
  | _ => rfl

/-- An effect of an instruction that writes the flag leaves 0 or 1 in it. -/
theorem Effect.VF_le_one {i : Instr} {s t : State} (he : Effect s i t) (hi : writesFlag i = true) :
    (t.V VF).toNat ≤ 1 := by
  have hbyte : ∀ c, (flagByte c).toNat ≤ 1 := by decide
  cases he with
  | flag x b c => exact State.setV_V_same _ _ _ ▸ hbyte c
  | draw x y n rows => exact drawSprite_VF _ _ _ _ ▸ hbyte _
  | branch a hb => exact nomatch hi.symm.trans (writesFlag_of_branches hb)
  | index a hx => exact nomatch hi.symm.trans (writesFlag_of_loadsIndex hx)
  | register x b _ hf => exact nomatch hi.symm.trans hf
  | _ => exact absurd hi Bool.false_ne_true

/-- Settles O41: a raise leaves the registers and does not run on. -/
theorem registersChangeOnlyAsDestinationOrFlag : Obligations.RegistersChangeOnlyAsDestinationOrFlag := by
  intro i s t h _
  rcases exec_next_cases h with ⟨c, -, rfl⟩ | ⟨-, he⟩
  · exact ⟨fun _ _ _ => rfl, fun _ hrun => nomatch hrun⟩
  · exact ⟨fun _ hr hflag => he.V_eq hr hflag, fun hi _ => he.VF_le_one hi⟩

/-! ## The run state (60_exceptions.md R151 to R154, R159) -/

/-- An effect changes the run state only by LD_VX_K and by a jump to itself. -/
theorem Effect.runState_cases {i : Instr} {s t : State} (he : Effect s i t) :
    (∃ x, i = .ldVxK x ∧ t.runState = .waitingForKey x) ∨
    (∃ nnn, i = .jp nnn ∧ nnn.toNat = s.instrAddr.toNat ∧ t.runState = .halted .explicitHalt) ∨
    ((∀ x, i ≠ .ldVxK x) ∧ (∀ nnn, i = .jp nnn → nnn.toNat ≠ s.instrAddr.toNat) ∧ t.runState = s.runState) := by
  cases he with
  | wait x => exact .inl ⟨x, rfl, rfl⟩
  | selfJump nnn hself => exact .inr (.inl ⟨nnn, rfl, hself, rfl⟩)
  | branch a hb hjp => exact .inr (.inr ⟨(by rintro x rfl; cases hb), hjp, rfl⟩)
  | register x b hx | flag x b c hx =>
    exact .inr (.inr ⟨(by rintro x rfl; cases hx), (by rintro nnn rfl; cases hx), rfl⟩)
  | index a hx => exact .inr (.inr ⟨(by rintro x rfl; cases hx), (by rintro nnn rfl; cases hx), rfl⟩)
  | _ => exact .inr (.inr ⟨nofun, nofun, rfl⟩)

/-- An effect from a running state ends in no runtime error. -/
theorem Effect.runState_ne_error {i : Instr} {s t : State} (he : Effect s i t) (hrun : s.runState = .running)
    (c : Cause) (info : Word) : t.runState ≠ .halted (.runtimeError c info) := by
  rcases he.runState_cases with ⟨x, -, e⟩ | ⟨nnn, -, -, e⟩ | ⟨-, -, e⟩
  · rw [e]; nofun
  · rw [e]; nofun
  · rw [e, hrun]; nofun

/-- Settles O43: the bound on the depth rules out the fault. -/
theorem instructionsRaiseExactlyTheirCause : Obligations.InstructionsRaiseExactlyTheirCause := by
  intro i s hsp hrun
  rcases exec_cases i s with ⟨c, hc, e⟩ | ⟨hc, t, e, he⟩ | ⟨h, -⟩
  · refine ⟨fun c' hc' => ?_, fun hnone => nomatch hc.symm.trans hnone⟩
    cases hc.symm.trans hc'
    exact e
  · exact ⟨fun c' hc' => (nomatch hc.symm.trans hc'), fun _ => ⟨t, e, he.runState_ne_error hrun⟩⟩
  · exact absurd hsp (Nat.not_le.mpr h)

/-- Settles O44: a raise belongs to neither instruction; among the effects the run state tells the three cases apart. -/
theorem onlyWaitForKeyWaitsAndOnlySelfJumpHalts : Obligations.OnlyWaitForKeyWaitsAndOnlySelfJumpHalts := by
  intro i s t hrun h
  rcases exec_next_cases h with ⟨c, hc, rfl⟩ | ⟨-, he⟩
  · refine ⟨fun xw => iff_of_false nofun ?_, iff_of_false nofun ?_⟩
    · rintro rfl
      cases hc
    · rintro ⟨nnn, rfl, -⟩
      cases hc
  · rcases he.runState_cases with ⟨x, rfl, e⟩ | ⟨nnn, rfl, hself, e⟩ | ⟨hwait, hjp, e⟩ <;> rw [e]
    · exact ⟨fun xw => by simp, iff_of_false nofun nofun⟩
    · exact ⟨fun xw => iff_of_false nofun nofun, iff_of_true rfl ⟨nnn, rfl, hself⟩⟩
    · rw [hrun]
      exact ⟨fun xw => iff_of_false nofun (hwait xw),
        iff_of_false nofun fun ⟨nnn, hi, hself⟩ => hjp nnn hi hself⟩

/-- Settles O45: the error is the fetch's, the decoder's or the instruction's own, and each is a halt of a state in
which at most `pc` has been advanced. -/
theorem errorsArePrecise : Obligations.ErrorsArePrecise := by
  intro r s t c info hrun h herr
  rcases tick_cases r s with ⟨hn, -⟩ | ⟨xw, k, hw, -⟩ | ⟨-, e⟩ | ⟨w, -, e⟩ | ⟨i, -, e⟩
  · exact absurd hrun hn
  · cases hw.symm.trans hrun
  · cases e.symm.trans h
    cases herr
    exact ⟨rfl, .inl rfl⟩
  · cases e.symm.trans h
    cases herr
    exact ⟨rfl, .inr rfl⟩
  · rcases exec_next_cases (e.symm.trans h) with ⟨c', -, rfl⟩ | ⟨-, he⟩
    · cases herr
      exact ⟨rfl, .inr rfl⟩
    · exact absurd herr (he.runState_ne_error hrun c info)

/-- Settles O46: a tick leaves a halted state as it is, and of the other operations `reset()` alone writes the run
state. -/
theorem onlyResetLeavesAHaltedState : Obligations.OnlyResetLeavesAHaltedState := by
  intro s t reason hhalt h
  cases hs : s.schedule with
  | nil =>
    rw [step_nil hs, tick_halted hhalt] at h
    cases h
    exact .inl hhalt
  | cons op ops =>
    rw [step_cons hs] at h
    cases op with
    | tick r =>
      cases (tick_halted (s := { s with schedule := ops }) hhalt r).symm.trans h
      exact .inl hhalt
    | reset =>
      cases h
      exact .inr ⟨ops, rfl, rfl⟩
    | timerDecrement | setKeys p r | setQuirks v a | resetDisplayFlags =>
      cases h
      exact .inl hhalt
    | memWrite addr bytes =>
      rw [runHostOp, memWrite] at h
      split at h
      · cases h
        exact .inl hhalt
      · cases h

end Sys2Proof.Machine
end

section
/-! Arithmetic with the flag (spec/41_alu.md R106 to R111): the flag bytes as numbers, and the statements about ADD_REG,
SUB, SUBN, SHR, SHL and RND, each from what `writeWithFlag` leaves. -/

namespace Sys2Proof.Machine

/-- The execute part of an instruction that writes a result and a flag, with both given as numbers. -/
theorem exec_flag_spec {i : Instr} {s : State} {x : Nibble} {b : Byte} {c : Bool} {P : Byte → Prop} {f : Nat}
    (h : exec i s = writeWithFlag x b c s) (hf : (flagByte c).toNat = f) (hb : P b) :
    ∃ t, exec i s = .next t ∧ (t.V VF).toNat = f ∧ (x ≠ VF → P (t.V x)) ∧ OnlyRegs [x, VF] s t := by
  obtain ⟨t, e, hVF, hx, hframe⟩ := writeWithFlag_spec x b c s
  exact ⟨t, h.trans e, hVF ▸ hf, fun hne => hx hne ▸ hb, hframe⟩

/-! ## The flags as numbers (R106 to R110) -/

theorem flagByte_carryOut (a b : Byte) :
    (flagByte (carryOut a b)).toNat = if a.toNat + b.toNat > 255 then 1 else 0 := by
  simp [carryOut]

theorem flagByte_notBorrow (a b : Byte) :
    (flagByte (notBorrow a b)).toNat = if a.toNat ≥ b.toNat then 1 else 0 := by
  simp [notBorrow]

theorem flagByte_shiftedOutRight (v : Byte) : (flagByte (shiftedOutRight v)).toNat = v.toNat % 2 := by
  rw [flagByte_toNat, shiftedOutRight, BitVec.getLsbD, Nat.testBit_zero]
  simp only [decide_eq_true_eq]
  split <;> omega

theorem flagByte_shiftedOutLeft (v : Byte) : (flagByte (shiftedOutLeft v)).toNat = v.toNat / 128 := by
  have hlt := v.isLt
  rw [flagByte_toNat, shiftedOutLeft, BitVec.getLsbD, Nat.testBit_eq_decide_div_mod_eq]
  simp only [decide_eq_true_eq, Nat.reducePow]
  split <;> omega

/-! ## The results as numbers -/

/-- The wrapped difference is the difference of the integers modulo 256. -/
theorem toNat_sub_eq_emod (a b : Byte) : ((a - b).toNat : Int) = (a.toNat - b.toNat : Int) % 256 := by
  have ha := a.isLt
  have hb := b.isLt
  rw [BitVec.toNat_sub]
  omega

/-- Settles O18: the flag is the carry of the old values, the result their sum modulo 256. -/
theorem addRegistersWithCarryOut : Obligations.AddRegistersWithCarryOut := by
  intro x y s
  exact exec_flag_spec (P := fun v => v.toNat = ((s.V x).toNat + (s.V y).toNat) % 256) rfl
    (flagByte_carryOut _ _) (BitVec.toNat_add _ _)

/-- Settles O19: SUBN is SUB with the operands exchanged. -/
theorem subtractWithNotBorrow : Obligations.SubtractWithNotBorrow := by
  intro x y s
  constructor
  · exact exec_flag_spec (P := fun v => (v.toNat : Int) = ((s.V x).toNat - (s.V y).toNat : Int) % 256) rfl
      (flagByte_notBorrow _ _) (toNat_sub_eq_emod _ _)
  · exact exec_flag_spec (P := fun v => (v.toNat : Int) = ((s.V y).toNat - (s.V x).toNat : Int) % 256) rfl
      (flagByte_notBorrow _ _) (toNat_sub_eq_emod _ _)

/-- Settles O20: the source is the model's `shiftSource`; shifting by one halves or doubles. -/
theorem shiftsByOneWithTheBitShiftedOut : Obligations.ShiftsByOneWithTheBitShiftedOut := by
  rintro x y v s rfl
  constructor
  · refine exec_flag_spec (P := fun v => v.toNat = (s.shiftSource x y).toNat / 2) rfl (flagByte_shiftedOutRight _) ?_
    rw [BitVec.toNat_ushiftRight, Nat.shiftRight_eq_div_pow, Nat.pow_one]
  · refine exec_flag_spec (P := fun v => v.toNat = 2 * (s.shiftSource x y).toNat % 256) rfl
      (flagByte_shiftedOutLeft _) ?_
    rw [BitVec.toNat_shiftLeft, Nat.shiftLeft_eq, Nat.pow_one, Nat.mul_comm]

/-- Settles O21: one register write of a bitwise AND. -/
theorem randomByteUnderTheMask : Obligations.RandomByteUnderTheMask := by
  intro x kk s
  have hexec : exec (.rnd x kk) s = .next (s.setV x (s.randByte &&& kk)) := rfl
  exact exec_bits_of_setV hexec fun _ => BitVec.getLsbD_and

end Sys2Proof.Machine
end

section
/-! The index register and the memory blocks (spec/42_index_memory.md R120 to R126, 20_memory.md R42, R50): reading back
what a block store wrote, and the statements of that family. -/

namespace Sys2Proof.Machine

/-! ## The index register (R120 to R122, R124) -/

/-- Settles O22: the three sums and products as numbers. -/
theorem indexRegisterWrites : Obligations.IndexRegisterWrites := by
  intro nnn x s
  refine ⟨⟨_, rfl, addrImm_toNat nnn, rfl⟩, ⟨_, rfl, ?_, rfl⟩, ⟨_, rfl, glyphAddr_toNat _, rfl⟩⟩
  rw [State.setIr_ir, BitVec.toNat_add, State.regAsAddr_toNat]

/-- The index advance as a number: by `x + 1` modulo 2^16 where the quirk is set. -/
theorem State.advanceIndex_ir_toNat (s : State) (x : Nibble) :
    (State.advanceIndex x s).ir.toNat =
      if s.quirkIndexAdvance then (s.ir.toNat + x.toNat + 1) % 65536 else s.ir.toNat := by
  rw [State.advanceIndex_eq, State.setIr_ir]
  split
  · rw [BitVec.toNat_add, BitVec.toNat_ofNat, regCount, Nat.add_mod_mod, Nat.add_assoc]
  · rfl

/-! ## Reading back a block -/

section
variable {m : Memory} (hm : Memory.wf m = true) {a : Nat} {bs : List Byte} (ha : a + bs.length ≤ Config.memSize)
include hm ha

/-- The byte at offset `k` of the block. -/
theorem Memory.read_writeAll_at {k : Nat} (hk : k < bs.length) : (m.writeAll a bs).read (a + k) = bs.getD k 0 := by
  rw [Memory.read_writeAll hm ha, if_pos ⟨Nat.le_add_right a k, Nat.add_lt_add_left hk a⟩, Nat.add_sub_cancel_left]

/-- A byte outside the block. -/
theorem Memory.read_writeAll_outside {c : Nat} (hc : ¬ (a ≤ c ∧ c < a + bs.length)) :
    (m.writeAll a bs).read c = m.read c := by
  rw [Memory.read_writeAll hm ha, if_neg hc]

end

theorem getD_map_range (f : Nat → Byte) {n k : Nat} (hk : k < n) : ((List.range n).map f).getD k 0 = f k := by
  simp [hk]

/-! ## LD_B_VX, ST_REGS and LD_REGS (R123 to R126) -/

/-- Settles O23: the block is the three digits, read back one by one. -/
theorem bcdStoresThreeDigits : Obligations.BcdStoresThreeDigits := by
  intro x s hwf hr
  have hexec : exec (.ldBVx x) s = .next (s.setMem (s.mem.writeAll s.dataAddr (bcdDigits (s.V x)))) :=
    ((exec_ldBVx_cases x s).resolve_right fun hp => absurd hr (Nat.not_lt.mpr hp.1)).2
  have hlen : s.ir.toNat + (bcdDigits (s.V x)).length ≤ Config.memSize := hr
  obtain ⟨h100, h10, h1⟩ := bcdDigits_eq (s.V x)
  refine ⟨_, hexec, rfl, ?_, ?_, ?_, fun c hc => Memory.read_writeAll_outside hwf hlen hc⟩
  · exact (congrArg BitVec.toNat (Memory.read_writeAll_at hwf hlen (k := 0) (by simp))).trans h100
  · exact (congrArg BitVec.toNat (Memory.read_writeAll_at hwf hlen (k := 1) (by simp))).trans h10
  · exact (congrArg BitVec.toNat (Memory.read_writeAll_at hwf hlen (k := 2) (by simp))).trans h1

/-- Settles O24: the block is the registers up to `x`, read back one by one. -/
theorem registerDumpStoresV0ToVx : Obligations.RegisterDumpStoresV0ToVx := by
  intro x s hwf hr
  have hblen := State.dumpBytes_length s x
  have hexec : exec (.stRegs x) s =
      .next (State.advanceIndex x (s.setMem (s.mem.writeAll s.dataAddr (s.dumpBytes x)))) :=
    ((exec_stRegs_cases x s).resolve_right fun hp => absurd hr (Nat.not_lt.mpr hp.1)).2
  have hlen : s.ir.toNat + (s.dumpBytes x).length ≤ Config.memSize := hblen ▸ hr
  refine ⟨_, hexec, ?_, fun r hrx => ?_, fun c hc => ?_, State.advanceIndex_ir_toNat _ x⟩
  · rw [State.advanceIndex_eq]
    rfl
  · rw [State.advanceIndex_mem]
    exact (Memory.read_writeAll_at hwf hlen (hblen ▸ Nat.lt_succ_of_le hrx)).trans (s.dumpBytes_getD x r hrx)
  · rw [State.advanceIndex_mem]
    exact Memory.read_writeAll_outside hwf hlen (hblen ▸ hc)

/-- Settles O25: register `r` is byte `r` of the block where there is one. -/
theorem registerLoadReadsV0ToVx : Obligations.RegisterLoadReadsV0ToVx := by
  intro x s hr
  have hexec : exec (.ldRegs x) s = .next (State.advanceIndex x
      (s.loadRegs ((List.range (regCount x)).map fun i => s.mem.read (s.dataAddr + i)))) :=
    ((exec_ldRegs_cases x s).resolve_right fun hp => absurd hr (Nat.not_lt.mpr hp.1)).2
  refine ⟨_, hexec, ?_, fun r hrx => ?_, fun r hrx => ?_, State.advanceIndex_ir_toNat _ x⟩
  · rw [State.advanceIndex_eq]
    rfl
  · have hlt : r.toNat < regCount x := Nat.lt_succ_of_le hrx
    rw [State.advanceIndex_V, State.loadRegs_V, if_pos (by simpa using hlt), getD_map_range _ hlt, State.dataAddr]
  · have hge : ¬ r.toNat < regCount x := Nat.not_lt.mpr hrx
    rw [State.advanceIndex_V, State.loadRegs_V, if_neg (by simpa using hge)]

/-- Settles O26: past the end the checked access raises, whatever it would have done. -/
theorem blockAccessPastTheEndRaises : Obligations.BlockAccessPastTheEndRaises := by
  intro x s
  refine ⟨fun h => ⟨?_, ?_⟩, fun h => ?_⟩
  · exact ((exec_stRegs_cases x s).resolve_left fun hin => absurd hin.1 (Nat.not_lt.mpr h)).2
  · exact ((exec_ldRegs_cases x s).resolve_left fun hin => absurd hin.1 (Nat.not_lt.mpr h)).2
  · exact ((exec_ldBVx_cases x s).resolve_left fun hin => absurd hin.1 (Nat.not_lt.mpr h)).2

/-! ## A block read after it is written -/

/-- Settles O27: the load reads the three digits where the store put them, and a byte is its decimal digits. -/
theorem bcdThenRegisterLoadGivesTheDigits : Obligations.BcdThenRegisterLoadGivesTheDigits := by
  intro x s hwf hr
  obtain ⟨t, hstore, hframe, h100, h10, h1, -⟩ := bcdStoresThreeDigits x s hwf hr
  have hir : t.ir = s.ir := by rw [hframe]
  obtain ⟨u, hload, -, hregs, -⟩ := registerLoadReadsV0ToVx 0x2#4 t (hir ▸ hr)
  rw [hir] at hregs
  have h0 : (u.V 0x0#4).toNat = (s.V x).toNat / 100 := (congrArg BitVec.toNat (hregs 0x0#4 (by decide))).trans h100
  have h1' : (u.V 0x1#4).toNat = (s.V x).toNat / 10 % 10 :=
    (congrArg BitVec.toNat (hregs 0x1#4 (by decide))).trans h10
  have h2 : (u.V 0x2#4).toNat = (s.V x).toNat % 10 := (congrArg BitVec.toNat (hregs 0x2#4 (by decide))).trans h1
  have hlt := (s.V x).isLt
  exact ⟨t, u, hstore, hload, by omega, by omega, by omega, by omega⟩

/-- Settles O28: the fetch reads the first two bytes of the block. -/
theorem storedWordIsFetchedNext : Obligations.StoredWordIsFetchedNext := by
  intro x s t hwf hx h hr
  obtain ⟨t', hstore, -, hbytes, -⟩ := registerDumpStoresV0ToVx x s hwf hr
  cases hstore.symm.trans h
  have hhigh : t.mem.read s.ir.toNat = s.V 0x0#4 := hbytes 0x0#4 (Nat.zero_le _)
  have hlow : t.mem.read (s.ir.toNat + 1) = s.V 0x1#4 := hbytes 0x1#4 hx
  have hfetch : fetchWord { t with pc := s.ir } =
      some (wordOfBytes (t.mem.read s.ir.toNat) (t.mem.read (s.ir.toNat + 1))) :=
    fetchWord_of_lt (Nat.lt_of_le_of_lt (Nat.add_le_add_left hx _) hr)
  rw [hfetch, hhigh, hlow, wordOfBytes]

end Sys2Proof.Machine
end

section
/-! DRW and the key skips (spec/43_display.md R132, R135, R136; 44_keys_timers.md R143, R144): what drawing a sprite
leaves in each cell and in `VF`, and the statements of those instructions. -/

namespace Sys2Proof.Machine

/-! ## Drawing a sprite (R132, R135) -/

/-- The bytes of the `n`-row sprite at `ir`. -/
def State.spriteRows (s : State) (n : Nibble) : List Byte :=
  (List.range n.toNat).map fun i => s.mem.read (s.dataAddr + i)

/-- DRW of a sprite within memory. -/
theorem exec_drw_inMemory {x y n : Nibble} {s : State} (h : SpriteInMemory s n) :
    exec (.drw x y n) s = .next (drawSprite x y (s.spriteRows n) s) :=
  ((exec_drw_cases x y n s).resolve_right fun hp => hp.1 h).2

section
variable {s : State} {x y n : Nibble} {cx : Fin Config.displayW} {cy : Fin Config.displayH}

theorem drawSprite_covered (h : SpriteCovers s x y n cx cy) :
    Grid.cell (drawSprite x y (s.spriteRows n) s).display.fb cx cy = !Grid.cell s.display.fb cx cy ∧
      Grid.cell (drawSprite x y (s.spriteRows n) s).display.dirty cx cy = true := by
  have hmem := (mem_sprite_iff_covers s x y n cx cy).mpr h
  rw [drawSprite_display, State.spriteRows]
  constructor
  · rw [Display.drawPixels_fb (sprite_nodup s x y n), if_pos hmem]
  · rw [Display.drawPixels_dirty, decide_eq_true hmem, Bool.true_or]

theorem drawSprite_uncovered (h : ¬ SpriteCovers s x y n cx cy) :
    Grid.cell (drawSprite x y (s.spriteRows n) s).display.fb cx cy = Grid.cell s.display.fb cx cy ∧
      Grid.cell (drawSprite x y (s.spriteRows n) s).display.dirty cx cy = Grid.cell s.display.dirty cx cy := by
  have hmem := mt (mem_sprite_iff_covers s x y n cx cy).mp h
  rw [drawSprite_display, State.spriteRows]
  constructor
  · rw [Display.drawPixels_fb (sprite_nodup s x y n), if_neg hmem]
  · rw [Display.drawPixels_dirty, decide_eq_false hmem, Bool.false_or]

/-- The collision bit of a sprite: one of the cells it covers was lit. -/
theorem sprite_collision_iff :
    (Display.drawPixels (spritePixels (s.spriteRows n) (s.V x).toNat (s.V y).toNat) s.display).1 = true ↔
      ∃ cx cy, SpriteCovers s x y n cx cy ∧ Grid.cell s.display.fb cx cy = true := by
  rw [State.spriteRows, Display.drawPixels_collision (sprite_nodup s x y n)]
  simp only [← mem_sprite_iff_covers]
  exact Prod.exists

theorem drawSprite_VF_lit (h : ∃ cx cy, SpriteCovers s x y n cx cy ∧ Grid.cell s.display.fb cx cy = true) :
    ((drawSprite x y (s.spriteRows n) s).V VF).toNat = 1 := by
  rw [drawSprite_VF, sprite_collision_iff.mpr h]
  rfl

theorem drawSprite_VF_unlit (h : ∀ cx cy, SpriteCovers s x y n cx cy → Grid.cell s.display.fb cx cy = false) :
    ((drawSprite x y (s.spriteRows n) s).V VF).toNat = 0 := by
  have hno := mt sprite_collision_iff.mp fun ⟨cx, cy, hc, hlit⟩ => Bool.false_ne_true ((h cx cy hc).symm.trans hlit)
  rw [drawSprite_VF, Bool.eq_false_iff.mpr hno]
  rfl

end

/-- Settles O30: cell by cell, the cells covered are the cells drawn on, each once. -/
theorem drawTogglesExactlyTheSpriteCells : Obligations.DrawTogglesExactlyTheSpriteCells := by
  intro x y n s h
  refine ⟨_, exec_drw_inMemory h, ?_, fun r hr => drawSprite_V_ne _ _ _ _ hr, fun _ _ hc => drawSprite_covered hc,
    fun _ _ hc => drawSprite_uncovered hc, drawSprite_VF_lit, drawSprite_VF_unlit⟩
  have hflag : (drawSprite x y (s.spriteRows n) s).display.wasCleared = s.display.wasCleared := by
    rw [drawSprite_display, Display.drawPixels_wasCleared]
  rw [← hflag]
  rfl

/-- Settles O31: a sprite that passes the end is not in memory. -/
theorem drawPastTheEndRaises : Obligations.DrawPastTheEndRaises := by
  intro x y n s hn hpast
  have hout : ¬ SpriteInMemory s n := by
    unfold SpriteInMemory
    omega
  exact ((exec_drw_cases x y n s).resolve_left fun hin => hout hin.1).2

/-- The cells a sprite covers depend on its bytes and on its coordinates only. -/
theorem spriteCovers_congr {s t : State} {x y : Nibble} (n : Nibble) (hmem : t.mem = s.mem) (hir : t.ir = s.ir)
    (hx : t.V x = s.V x) (hy : t.V y = s.V y) (cx : Fin Config.displayW) (cy : Fin Config.displayH) :
    SpriteCovers t x y n cx cy ↔ SpriteCovers s x y n cx cy := by
  rw [SpriteCovers, SpriteCovers, hmem, hir, hx, hy]

/-- Settles O32: the second draw covers the same cells, so it toggles them back, and it finds lit what the first one
lit. -/
theorem drawTwiceRestoresTheFramebuffer : Obligations.DrawTwiceRestoresTheFramebuffer := by
  intro x y n s t hs h hx hy
  obtain ⟨t', ht, hframe, -, hcov, huncov, -, hunlit⟩ := drawTogglesExactlyTheSpriteCells x y n s hs
  cases ht.symm.trans h
  have hmem : t.mem = s.mem := by rw [hframe]
  have hir : t.ir = s.ir := by rw [hframe]
  have hsame := spriteCovers_congr n hmem hir hx hy
  have hin : SpriteInMemory t n := by rwa [SpriteInMemory, hir]
  obtain ⟨u, hu, -, -, hcov', huncov', hlit', -⟩ := drawTogglesExactlyTheSpriteCells x y n t hin
  refine ⟨u, hu, Grid.ext_cell fun cx cy => ?_, fun ⟨cx, cy, hc⟩ hdark => ⟨hunlit hdark, hlit' ⟨cx, cy, ?_, ?_⟩⟩⟩
  · by_cases hc : SpriteCovers s x y n cx cy
    · rw [(hcov' cx cy ((hsame cx cy).mpr hc)).1, (hcov cx cy hc).1, Bool.not_not]
    · rw [(huncov' cx cy (mt (hsame cx cy).mp hc)).1, (huncov cx cy hc).1]
  · exact (hsame cx cy).mpr hc
  · rw [(hcov cx cy hc).1, hdark cx cy hc]
    rfl

/-! ## The key skips (R143, R144) -/

/-- A key number selects a bit of the pressed mask. -/
theorem skipOnKey_of_le {x : Nibble} {s : State} (h : (s.V x).toNat ≤ 15) (w : Word) (want : Bool) :
    skipOnKey w x want s = .next (s.setPc (if s.keyPressed (s.V x).toNat = want then s.pc + 2#16 else s.pc)) :=
  ((skipOnKey_cases w x want s).resolve_left fun hp => absurd h (Nat.not_le.mpr hp.1)).2

/-- A register value above 15 is no key number. -/
theorem skipOnKey_of_gt {x : Nibble} {s : State} (h : (s.V x).toNat > 15) (w : Word) (want : Bool) :
    skipOnKey w x want s = .next (s.haltedBy .badKeyIndex w) :=
  ((skipOnKey_cases w x want s).resolve_right fun hp => absurd h (Nat.not_lt.mpr hp.1)).2

/-- Settles O33: SKNP skips where SKP does not. -/
theorem keySkipsTestThePressedMask : Obligations.KeySkipsTestThePressedMask := by
  intro x s
  refine ⟨fun h => ⟨skipOnKey_of_le h _ _, (skipOnKey_of_le h _ _).trans ?_⟩, fun h =>
    ⟨skipOnKey_of_gt h _ _, skipOnKey_of_gt h _ _⟩⟩
  rw [State.keyPressed]
  cases s.keysPressed.getLsbD (s.V x).toNat <;> rfl

end Sys2Proof.Machine
end

section
/-! SYS, JP and nested calls (spec/40_control.md R82 to R85, 10_state.md R14). -/

namespace Sys2Proof.Machine

/-- Settles O10: the execute part of SYS is the identity. -/
theorem sysChangesNothing : Obligations.SysChangesNothing := fun _ _ => rfl

/-- Settles O12: the model's comparison of addresses is that of their numbers. -/
theorem jumpSetsPcAndSelfJumpHalts : Obligations.JumpSetsPcAndSelfJumpHalts := by
  intro nnn s
  rcases exec_jp_cases nnn s with ⟨hself, e⟩ | ⟨hne, e⟩
  · exact ⟨fun hne => absurd hself hne, fun _ => e⟩
  · exact ⟨fun _ => ⟨_, e, rfl, addrImm_toNat nnn⟩, fun hself => absurd hself hne⟩

/-! ## Nested calls -/

theorem execAll_cons {i : Instr} {s t : State} (h : exec i s = .next t) (is : List Instr) :
    execAll (i :: is) s = execAll is t := by
  rw [execAll, h]

/-- Sequences compose. -/
theorem execAll_append {is : List Instr} {s t : State} (h : execAll is s = .next t) (js : List Instr) :
    execAll (is ++ js) s = execAll js t := by
  induction is generalizing s with
  | nil =>
    cases h
    rfl
  | cons i is ih =>
    rw [List.cons_append, execAll]
    rw [execAll] at h
    split at h
    · exact ih h
    · cases h
    · cases h

/-- `u` has the depth, the entries below it and the run state of `s`: where a call of `s` returns. -/
def ReturnsTo (s u : State) : Prop :=
  u.sp = s.sp ∧ u.runState = s.runState ∧ ∀ k < s.sp, u.stack[k]? = s.stack[k]?

/-- The state after a CALL with room. -/
def State.called (s : State) (nnn : Addr12) : State :=
  (s.setStack (s.stack.set s.sp s.pc) (s.sp + 1)).setPc (addrImm nnn)

theorem State.called_stackCapacity (s : State) (nnn : Addr12) : (s.called nnn).stackCapacity = s.stackCapacity :=
  List.length_set

/-- A RET from where a call's body comes back returns to the caller, at the address after the call. -/
theorem exec_ret_called {s u : State} {nnn : Addr12} (hroom : s.sp < s.stackCapacity)
    (hu : ReturnsTo (s.called nnn) u) :
    ∃ v, exec .ret u = .next v ∧ ReturnsTo s v ∧ v.pc = s.pc := by
  obtain ⟨hsp, hrun, hstack⟩ := hu
  have hsp' : u.sp = s.sp + 1 := hsp
  have htop : u.stack[u.sp - 1]? = some s.pc := by
    rw [hsp', Nat.add_sub_cancel, hstack s.sp (Nat.lt_succ_self _)]
    exact List.getElem?_set_self hroom
  refine ⟨_, popToPc_some (by omega) htop, ⟨?_, hrun, fun k hk => ?_⟩, rfl⟩
  · rw [State.setPc_sp, State.setStack_sp, hsp', Nat.add_sub_cancel]
  · rw [State.setPc_stack, State.setStack_stack, hstack k (Nat.lt_succ_of_lt hk)]
    exact List.getElem?_set_ne (Nat.ne_of_gt hk)

/-- As many nested calls as there is room for succeed, and as many returns come back. -/
theorem execAll_calls_returns (targets : List Addr12) (s : State) (h : s.sp + targets.length ≤ s.stackCapacity) :
    ∃ t, execAll (targets.map Instr.call) s = .next t ∧ t.sp = s.sp + targets.length ∧
      t.stackCapacity = s.stackCapacity ∧ t.runState = s.runState ∧
      ∃ u, execAll (List.replicate targets.length .ret) t = .next u ∧ ReturnsTo s u ∧ (targets ≠ [] → u.pc = s.pc) := by
  induction targets generalizing s with
  | nil => exact ⟨s, rfl, rfl, rfl, rfl, s, rfl, ⟨rfl, rfl, fun _ _ => rfl⟩, fun hne => absurd rfl hne⟩
  | cons nnn targets ih =>
    rw [List.length_cons] at h
    have hroom : s.sp < s.stackCapacity := by omega
    have hcap := s.called_stackCapacity nnn
    have hrest : s.sp + 1 + targets.length ≤ (s.called nnn).stackCapacity := by omega
    obtain ⟨t, ht, hsp, hcapt, hrun, u, hu, hback, -⟩ := ih (s.called nnn) hrest
    obtain ⟨v, hv, hvback, hpc⟩ := exec_ret_called hroom hback
    refine ⟨t, ?_, ?_, hcapt.trans hcap, hrun, v, ?_, hvback, fun _ => hpc⟩
    · rw [List.map_cons, execAll_cons (exec_call_room hroom)]
      exact ht
    · rw [hsp, List.length_cons]
      exact Nat.add_right_comm _ _ _
    · rw [List.length_cons, List.replicate_succ', execAll_append hu, execAll_cons hv, execAll]

/-- Settles O52: after the calls a full stack makes the next one overflow. -/
theorem nestedCallsFillTheStackAndReturn : Obligations.NestedCallsFillTheStackAndReturn := by
  intro targets s h
  obtain ⟨t, ht, hsp, hcap, hrun, u, hu, ⟨husp, hurun, hstack⟩, hpc⟩ := execAll_calls_returns targets s h
  refine ⟨t, ht, hsp, hrun, fun hfull nnn => ?_, u, hu, husp, hurun, hstack, hpc⟩
  exact exec_call_full (hsp.trans (hfull.trans hcap.symm))

end Sys2Proof.Machine
end

section
/-! The host's operations and the state after reset (spec/00_scope.md R3, 10_state.md R25, 20_memory.md R53,
43_display.md R133, 44_keys_timers.md R142, 60_exceptions.md R162, 70_reset_and_hazards.md R180, R183). -/

namespace Sys2Proof.Machine

/-! ## Timers, keys and quirks -/

theorem countDown_toNat (b : Byte) : (countDown b).toNat = b.toNat - 1 := by
  have := b.isLt
  rw [countDown]
  split
  · rw [BitVec.toNat_sub_of_le (by rw [BitVec.le_def]; exact ‹_›)]
    rfl
  · omega

/-- Settles O53: each timer counts down by itself, truncated at zero. -/
theorem timerDecrementSaturatesAtZero : Obligations.TimerDecrementSaturatesAtZero :=
  fun _ _ hs => ⟨_, step_cons hs, rfl, countDown_toNat _, countDown_toNat _⟩

/-- Settles O54: either operation is one update of the state. -/
theorem setKeysAndSetQuirksReplace : Obligations.SetKeysAndSetQuirksReplace :=
  fun _ _ => ⟨fun _ _ hs => step_cons hs, fun _ _ hs => step_cons hs⟩

/-! ## Reset -/

/-- A register file of zeros reads zero everywhere. -/
theorem State.V_of_zero {s : State} (h : s.regs = Vector.replicate 16 0x00#8) (r : Nibble) : s.V r = 0x00#8 := by
  simp [State.V, h]

/-- Settles O55: every field named has its literal value, every other is the old one. -/
theorem resetRestoresInitialValuesAndKeepsMemory : Obligations.ResetRestoresInitialValuesAndKeepsMemory := by
  intro s ops hs
  refine ⟨_, step_cons hs, fun r => ?_, rfl, rfl, rfl, rfl, rfl, rfl, fun cx cy => ?_, rfl, rfl, rfl, rfl⟩
  · rw [State.V_of_zero rfl]
    rfl
  · exact ⟨Grid.cell_filled false cx cy, Grid.cell_filled false cx cy⟩

/-- Past the font an unlisted address reads as zero. -/
theorem Memory.unlisted_of_ge {a : Nat} (h : 0x050 ≤ a) : Memory.unlisted a = 0x00#8 :=
  List.getD_eq_default _ _ h

/-- Settles O58: the fields by their values, the font byte by byte. -/
theorem stateAfterReset : Obligations.StateAfterReset :=
  ⟨rfl, rfl, fun r => State.V_of_zero rfl r, rfl, rfl, rfl, rfl, rfl, rfl, rfl,
    fun cx cy => ⟨Grid.cell_filled false cx cy, Grid.cell_filled false cx cy⟩, by decide, by decide, by decide,
    fun _ h => Memory.unlisted_of_ge h⟩

/-! ## The display flags (R133) -/

@[simp] theorem Display.resetFlags_fb (d : Display) : d.resetFlags.fb = d.fb := by
  unfold Display.resetFlags
  split <;> rfl

/-- `reset_display_flags()` clears everything where some cell was dirty; where none was, there is nothing to clear. -/
theorem Display.resetFlags_clears {d : Display} (h : d.wasCleared = true → d.anyUpdate = true) :
    d.resetFlags.wasCleared = false ∧ ∀ cx cy, Grid.cell d.resetFlags.dirty cx cy = false := by
  unfold Display.resetFlags
  split
  · exact ⟨rfl, fun cx cy => Grid.cell_filled false cx cy⟩
  · next hnone =>
    refine ⟨Bool.eq_false_iff.mpr (mt h hnone), fun cx cy => Bool.eq_false_iff.mpr fun hd => hnone ?_⟩
    exact (Grid.any_iff _).mpr ⟨cx, cy, hd⟩

/-- Settles O56: the invariant rules out `was_cleared` without a dirty cell. -/
theorem resetDisplayFlagsAlwaysClears : Obligations.ResetDisplayFlagsAlwaysClears := by
  rintro s ops ⟨-, -, -, hdisplay⟩ hs
  obtain ⟨hw, hd⟩ := Display.resetFlags_clears hdisplay
  exact ⟨_, step_cons hs, rfl, s.display.resetFlags_fb, hw, hd⟩

/-! ## `mem_write` (20_memory.md R53) -/

/-- The range check as the spec states it for the host. -/
theorem inRange_bytes {addr : Nat} {bytes : List Byte} :
    Memory.inRange addr bytes.length = true ↔ addr + bytes.length ≤ Config.memSize ∨ bytes = [] := by
  by_cases h : bytes = []
  · simp [h, Memory.inRange]
  · rw [Memory.inRange_bound (mt List.length_eq_zero_iff.mp h)]
    simp [h]

/-- A write that passes the check lands: its bytes at `addr` on, the old bytes elsewhere. -/
theorem Memory.read_writeAll_inRange {m : Memory} (hm : Memory.wf m = true) {addr : Nat} {bytes : List Byte}
    (h : addr + bytes.length ≤ Config.memSize ∨ bytes = []) :
    (∀ k, (hk : k < bytes.length) → (m.writeAll addr bytes).read (addr + k) = bytes[k]) ∧
      ∀ c, ¬ (addr ≤ c ∧ c < addr + bytes.length) → (m.writeAll addr bytes).read c = m.read c := by
  rcases h with h | rfl
  · refine ⟨fun k hk => ?_, fun c hc => Memory.read_writeAll_outside hm h hc⟩
    rw [Memory.read_writeAll_at hm h hk, List.getD_eq_getElem _ _ hk]
  · exact ⟨nofun, fun _ _ => rfl⟩

/-- Settles O57: the range check decides between the two, and a write that passes it lands. -/
theorem hostMemoryWriteLandsOrIsRefused : Obligations.HostMemoryWriteLandsOrIsRefused := by
  intro s addr bytes ops hm hs
  rw [step_cons hs, runHostOp, memWrite]
  refine ⟨fun h => ?_, fun hne hpast => ?_⟩
  · rw [Memory.writeBytes?_of_inRange (inRange_bytes.mpr h)]
    obtain ⟨hin, hout⟩ := Memory.read_writeAll_inRange hm h
    exact ⟨_, rfl, rfl, hin, hout⟩
  · have hnot : Memory.inRange addr bytes.length = false := by
      rw [Bool.eq_false_iff, ne_eq, inRange_bytes, not_or]
      exact ⟨Nat.not_le.mpr hpast, hne⟩
    rw [Memory.writeBytes?_of_not_inRange hnot]

end Sys2Proof.Machine
end

section
/-! What execution never reads (spec/10_state.md R16, R21, 43_display.md R137): the sound timer and the display flags.
An instruction that does not write them runs the same when they are replaced; the instructions that do are treated one
by one. -/

namespace Sys2Proof.Machine

/-- `s` with the display and the sound timer replaced by functions of themselves. -/
def State.mapUnread (g : Display → Display) (k : Byte → Byte) (s : State) : State :=
  { s with display := g s.display, st := k s.st }

/-- Applies `f` to the next state, if there is one. -/
def mapNext (f : State → State) : Result → Result
  | .next s => .next (f s)
  | .fault r => .fault r
  | .refused r => .refused r

/-- The instructions that write neither the display nor the sound timer. -/
def leavesUnread : Instr → Bool
  | .cls | .drw _ _ _ | .ldStVx _ => false
  | _ => true

theorem State.withDisplayFlags_eq_mapUnread (s : State) (dirty : Grid) (wasCleared : Bool) :
    s.withDisplayFlags dirty wasCleared =
      s.mapUnread (fun d => { fb := d.fb, dirty := dirty, wasCleared := wasCleared }) id := rfl

/-! ## The shared operations -/

/-- A pop above the capacity finds no entry. -/
theorem popToPc_none {w : Word} {s : State} (h0 : s.sp ≠ 0) (h : s.stack[s.sp - 1]? = none) :
    popToPc w s = .fault .stackEntryAbsent := by
  simp [popToPc, h0, h]

section
variable (g : Display → Display) (k : Byte → Byte) (s : State)

theorem skipIf_mapUnread (c : Bool) : skipIf c (s.mapUnread g k) = mapNext (State.mapUnread g k) (skipIf c s) := by
  cases c <;> rfl

theorem skipOnKey_mapUnread (w : Word) (x : Nibble) (want : Bool) :
    skipOnKey w x want (s.mapUnread g k) = mapNext (State.mapUnread g k) (skipOnKey w x want s) := by
  rw [skipOnKey_eq, skipOnKey_eq, apply_ite (mapNext _)]
  rfl

theorem pushAndJump_mapUnread (w a : Word) :
    pushAndJump w a (s.mapUnread g k) = mapNext (State.mapUnread g k) (pushAndJump w a s) := by
  rw [pushAndJump, pushAndJump, apply_ite (mapNext _), apply_ite (mapNext _)]
  rfl

theorem popToPc_mapUnread (w : Word) :
    popToPc w (s.mapUnread g k) = mapNext (State.mapUnread g k) (popToPc w s) := by
  by_cases h0 : s.sp = 0
  · rw [popToPc_empty h0, popToPc_empty (s := s.mapUnread g k) h0]
    rfl
  · cases h : s.stack[s.sp - 1]? with
    | some a =>
      rw [popToPc_some h0 h, popToPc_some (s := s.mapUnread g k) h0 h]
      rfl
    | none =>
      rw [popToPc_none h0 h, popToPc_none (s := s.mapUnread g k) h0 h]
      rfl

theorem storeBytes_mapUnread (w : Word) (a : Nat) (bs : List Byte) {post : State → State}
    (hpost : ∀ t : State, post (t.mapUnread g k) = (post t).mapUnread g k) :
    storeBytes w a bs post (s.mapUnread g k) = mapNext (State.mapUnread g k) (storeBytes w a bs post s) := by
  rcases storeBytes_cases w a bs post s with ⟨h, e⟩ | ⟨h, e⟩
  · rw [e, storeBytes_of_inRange h]
    exact congrArg Host.Outcome.next (hpost (s.setMem (s.mem.writeAll a bs)))
  · rw [e, storeBytes_of_not_inRange h]
    rfl

theorem loadBytes_mapUnread (w : Word) (a n : Nat) {post : List Byte → State → State}
    (hpost : ∀ bs, post bs (s.mapUnread g k) = (post bs s).mapUnread g k) :
    loadBytes w a n post (s.mapUnread g k) = mapNext (State.mapUnread g k) (loadBytes w a n post s) := by
  rcases loadBytes_cases w a n post s with ⟨h, e⟩ | ⟨h, e⟩
  · rw [e, loadBytes_of_inRange h]
    exact congrArg Host.Outcome.next (hpost _)
  · rw [e, loadBytes_of_not_inRange h]
    rfl

theorem State.advanceIndex_mapUnread (x : Nibble) :
    State.advanceIndex x (s.mapUnread g k) = (State.advanceIndex x s).mapUnread g k := by
  rw [State.advanceIndex_eq, State.advanceIndex_eq]
  rfl

theorem pollKey_mapUnread (xw : Nibble) :
    pollKey xw (s.mapUnread g k) = mapNext (State.mapUnread g k) (pollKey xw s) := by
  have hkeys : (s.mapUnread g k).keysReleased = s.keysReleased := rfl
  rw [pollKey, pollKey, State.readAnyKey, State.readAnyKey, hkeys]
  cases lowestKey s.keysReleased <;> rfl

/-- An instruction that writes none of these parts of the state does not read them either. -/
theorem exec_mapUnread {i : Instr} (hi : leavesUnread i = true) :
    exec i (s.mapUnread g k) = mapNext (State.mapUnread g k) (exec i s) := by
  cases i with
  | cls | drw x y n | ldStVx x => cases hi
  | ret => exact popToPc_mapUnread g k s _
  | call nnn => exact pushAndJump_mapUnread g k s _ _
  | jp nnn =>
    rw [exec, exec, execJp, execJp, apply_ite (mapNext _)]
    rfl
  | seImm x kk | sneImm x kk | seReg x y | sneReg x y => exact skipIf_mapUnread g k s _
  | skp x | sknp x => exact skipOnKey_mapUnread g k s _ x _
  | ldBVx x => exact storeBytes_mapUnread g k s _ _ _ fun _ => rfl
  | stRegs x => exact storeBytes_mapUnread g k s _ _ _ fun t => State.advanceIndex_mapUnread g k t x
  | ldRegs x =>
    exact loadBytes_mapUnread g k s _ _ _ (post := fun bs t => State.advanceIndex x (t.loadRegs bs))
      fun bs => State.advanceIndex_mapUnread g k (s.loadRegs bs) x
  | _ => rfl

end

/-! ## The tick -/

/-- A tick carries a relation `R` between the states it leaves when every instruction does, if `R` relates each state to
the one with its unread parts replaced. -/
theorem tick_mapUnread {g : Display → Display} {k : Byte → Byte} {R : State → State → Prop}
    (hR : ∀ t : State, R t (t.mapUnread g k))
    (hexec : ∀ i s t, exec i s = .next t → ∃ t', exec i (s.mapUnread g k) = .next t' ∧ R t t')
    {r : Byte} {s t : State} (h : tick r s = .next t) : ∃ t', tick r (s.mapUnread g k) = .next t' ∧ R t t' := by
  cases hrun : s.runState with
  | halted reason =>
    cases (tick_halted hrun r).symm.trans h
    exact ⟨_, tick_halted (s := s.mapUnread g k) hrun r, hR s⟩
  | waitingForKey xw =>
    rw [tick_waiting hrun] at h
    refine ⟨t.mapUnread g k, ?_, hR t⟩
    rw [tick_waiting (s := s.mapUnread g k) hrun, pollKey_mapUnread, h]
    rfl
  | running =>
    have hfetch : fetchWord (s.mapUnread g k) = fetchWord s := fetchWord_congr rfl rfl
    rw [tick_running hrun] at h
    rw [tick_running (s := s.mapUnread g k) hrun]
    rcases fetchAndExecute_cases r s with ⟨hw, e⟩ | ⟨w, w', hw, hd, e⟩ | ⟨w, i, hw, hd, e⟩
    · cases e.symm.trans h
      exact ⟨_, fetchAndExecute_out (hfetch.trans hw) r, hR _⟩
    · cases e.symm.trans h
      exact ⟨_, fetchAndExecute_unknown (hfetch.trans hw) hd r, hR _⟩
    · rw [fetchAndExecute_instr (hfetch.trans hw) hd r]
      exact hexec i _ t (e.symm.trans h)

/-! ## The sound timer (10_state.md R16) -/

/-- Only LD_ST_VX writes the sound timer, and it does not read it. -/
theorem exec_replaceSt (b : Byte) {i : Instr} {s t : State} (h : exec i s = .next t) :
    ∃ t', exec i (s.mapUnread id fun _ => b) = .next t' ∧ ∃ b', t' = { t with st := b' } := by
  by_cases hi : leavesUnread i = true
  · rw [exec_mapUnread _ _ _ hi, h]
    exact ⟨_, rfl, b, rfl⟩
  · cases i with
    | cls =>
      cases h
      exact ⟨_, rfl, b, rfl⟩
    | ldStVx x =>
      cases h
      exact ⟨_, rfl, s.V x, rfl⟩
    | drw x y n =>
      refine ⟨t.mapUnread id fun _ => b, ?_, b, rfl⟩
      exact (loadBytes_mapUnread id _ s _ _ _ (post := drawSprite x y) fun _ => rfl).trans (congrArg (mapNext _) h)
    | _ => exact absurd rfl hi

/-- Settles O51: every instruction, LD_ST_VX included, runs the same with another sound timer. -/
theorem soundTimerNeverInfluencesExecution : Obligations.SoundTimerNeverInfluencesExecution := by
  intro r s t b h
  obtain ⟨_, e, b', rfl⟩ := tick_mapUnread (R := fun t t' => ∃ b', t' = { t with st := b' }) (fun _ => ⟨b, rfl⟩)
    (fun _ _ _ => exec_replaceSt b) h
  exact ⟨b', e⟩

/-! ## The display flags (43_display.md R137) -/

/-- What drawing does to the framebuffer, and the collision, depend on the framebuffer only. -/
theorem Display.drawPixels_congr {d e : Display} (ps : List (Nat × Nat)) (h : e.fb = d.fb) :
    (Display.drawPixels ps e).1 = (Display.drawPixels ps d).1 ∧
      (Display.drawPixels ps e).2.fb = (Display.drawPixels ps d).2.fb := by
  induction ps generalizing d e with
  | nil => exact ⟨rfl, h⟩
  | cons p ps ih =>
    have hfb : (e.drawPixel p.1 p.2).2.fb = (d.drawPixel p.1 p.2).2.fb := by simp only [Display.drawPixel, h]
    have hbit : (e.drawPixel p.1 p.2).1 = (d.drawPixel p.1 p.2).1 := by simp only [Display.drawPixel, h]
    obtain ⟨h1, h2⟩ := ih hfb
    rw [Display.drawPixels_cons, Display.drawPixels_cons, h1, h2, hbit]
    exact ⟨rfl, rfl⟩

theorem drawSprite_of_drawn {x y : Nibble} {rows : List Byte} {s : State} {c : Bool} {d : Display}
    (h : Display.drawPixels (spritePixels rows (s.V x).toNat (s.V y).toNat) s.display = (c, d)) :
    drawSprite x y rows s = (s.setDisplay d).setV VF (flagByte c) := by
  rw [drawSprite, h]

/-- Drawing with other display flags differs in the display flags only. -/
theorem drawSprite_withDisplayFlags (x y : Nibble) (rows : List Byte) (s : State) (dirty : Grid) (wasCleared : Bool) :
    ∃ dirty' wasCleared', drawSprite x y rows (s.withDisplayFlags dirty wasCleared) =
      (drawSprite x y rows s).withDisplayFlags dirty' wasCleared' := by
  obtain ⟨hbit, hfb⟩ := Display.drawPixels_congr (d := s.display)
    (e := (s.withDisplayFlags dirty wasCleared).display) (spritePixels rows (s.V x).toNat (s.V y).toNat) rfl
  rcases hd : Display.drawPixels (spritePixels rows (s.V x).toNat (s.V y).toNat) s.display with ⟨c, d⟩
  rcases he : Display.drawPixels (spritePixels rows (s.V x).toNat (s.V y).toNat)
    (s.withDisplayFlags dirty wasCleared).display with ⟨c', fb', dirty', wasCleared'⟩
  rw [he, hd] at hbit hfb
  cases hbit
  cases hfb
  rw [drawSprite_of_drawn hd, drawSprite_of_drawn (s := s.withDisplayFlags dirty wasCleared) he]
  exact ⟨dirty', wasCleared', rfl⟩

/-- CLS and DRW write the display flags, and what else they write does not depend on them. -/
theorem exec_replaceDisplayFlags (dirty : Grid) (wasCleared : Bool) {i : Instr} {s t : State}
    (h : exec i s = .next t) :
    ∃ t', exec i (s.withDisplayFlags dirty wasCleared) = .next t' ∧ ∃ d w, t' = t.withDisplayFlags d w := by
  by_cases hi : leavesUnread i = true
  · rw [State.withDisplayFlags_eq_mapUnread, exec_mapUnread _ _ _ hi, h]
    exact ⟨_, rfl, dirty, wasCleared, rfl⟩
  · cases i with
    | cls =>
      cases h
      exact ⟨_, rfl, Grid.filled true, true, rfl⟩
    | ldStVx x =>
      cases h
      exact ⟨_, rfl, dirty, wasCleared, rfl⟩
    | drw x y n =>
      rcases loadBytes_cases (encode (.drw x y n)) s.dataAddr n.toNat (drawSprite x y) s with ⟨hr, e⟩ | ⟨hr, e⟩
      · cases e.symm.trans h
        obtain ⟨d, w, heq⟩ := drawSprite_withDisplayFlags x y
          ((List.range n.toNat).map fun i => s.mem.read (s.dataAddr + i)) s dirty wasCleared
        exact ⟨_, loadBytes_of_inRange hr, d, w, heq⟩
      · cases e.symm.trans h
        exact ⟨_, loadBytes_of_not_inRange hr, dirty, wasCleared, rfl⟩
    | _ => exact absurd rfl hi

/-- Settles O50: every instruction, CLS and DRW included, runs the same with other flags. -/
theorem displayFlagsNeverInfluenceExecution : Obligations.DisplayFlagsNeverInfluenceExecution := by
  intro r s t dirty wasCleared h
  obtain ⟨_, e, d, w, rfl⟩ := tick_mapUnread
    (g := fun d => { fb := d.fb, dirty := dirty, wasCleared := wasCleared }) (k := id)
    (R := fun t t' => ∃ d w, t' = t.withDisplayFlags d w)
    (fun _ => ⟨dirty, wasCleared, rfl⟩) (fun _ _ _ => exec_replaceDisplayFlags dirty wasCleared) h
  exact ⟨d, w, e⟩

end Sys2Proof.Machine
end
